-- ==== Sys2Proof/Word.lean ====
section
/-! DEFINITION. The bit patterns that cross the interface of the CORE datapath, each an unsigned integer on a bus of its
own width, bit `i` of weight `2^i` (20_memory.md R31). -/

namespace Sys2Proof

/-- The e4m3 pattern: sign, 4 exponent bits, 3 mantissa bits (30_encoding.md R42). -/
abbrev E4M3 := BitVec 8

/-- The fp16 pattern: sign, 5 exponent bits, 10 mantissa bits (30_encoding.md R43). -/
abbrev Fp16 := BitVec 16

/-- The bf16 pattern: sign, 8 exponent bits, 7 mantissa bits (30_encoding.md R44). -/
abbrev Bf16 := BitVec 16

/-- An aligned fixed-point value or a sum: a signed 32-bit two's-complement integer held as its bit pattern
(30_encoding.md R45). -/
abbrev Fxp := BitVec 32

/-- The anchor exponent, an unsigned 8-bit integer (30_encoding.md R46). -/
abbrev Anchor := BitVec 8

/-- The `COUNT` field of a command, 6 bits (00_scope.md R12). -/
abbrev Count := BitVec 6

/-- The command word `CMD` (30_encoding.md R47). -/
abbrev CmdWord := BitVec 32

/-- The response data bus `R` (10_state.md R20). -/
abbrev RespData := BitVec 32

end Sys2Proof
end

