-- ==== Sys2Proof/Syntax.lean ====
section
/-! DEFINITION. The commands of the block: one constructor of `Instr` per row of spec/opcode_table.json, and the three
reasons for which a command word is illegal. -/

namespace Sys2Proof

/-- One legal-form command word. Every row's encoding has the fields `ANCHOR` and `COUNT` (30_encoding.md R47), so every
constructor holds both; an operation that does not use a field ignores it (R48). The operands travel on the buses
(30_encoding.md R51) and are no part of a command. -/
inductive Instr where
  /-- `WIDEN.FP16` (40_format_decoder.md R65). -/
  | widenFp16 (anchor : Anchor) (count : Count)
  /-- `WIDEN.BF16` (40_format_decoder.md R66). -/
  | widenBf16 (anchor : Anchor) (count : Count)
  /-- `MUL.FP16` (41_fp16_multiplier.md R78). -/
  | mulFp16 (anchor : Anchor) (count : Count)
  /-- `SEL.ANCHOR` (42_anchor_exponent_selector.md R85). -/
  | selAnchor (anchor : Anchor) (count : Count)
  /-- `ALIGN.FP16` (43_fxp_aligner_pipeline.md R96). -/
  | alignFp16 (anchor : Anchor) (count : Count)
  /-- `ALIGN.E4M3` (43_fxp_aligner_pipeline.md R97). -/
  | alignE4M3 (anchor : Anchor) (count : Count)
  /-- `REDUCE` (44_fixed_point_accumulator.md R101). -/
  | reduce (anchor : Anchor) (count : Count)
  /-- `REQUANT.BF16` (45_fxp_to_bf16_requantizer.md R110). -/
  | requantBf16 (anchor : Anchor) (count : Count)
  /-- `MAC` (46_mac_composite.md R112). -/
  | mac (anchor : Anchor) (count : Count)
deriving DecidableEq, Repr

/-- Why a command is illegal (60_exceptions.md R115), in the order in which the checks are made. -/
inductive CommandError where
  /-- `CMD.OP` in `0x9..0xF`. -/
  | reservedOpcode
  /-- `CMD[7:4] ≠ 0` or `CMD[31:22] ≠ 0`. -/
  | reservedBits
  /-- `CMD.COUNT > NMAX` in an operation that uses `COUNT`. -/
  | countOutOfRange
deriving DecidableEq, Repr

/-- The `ANCHOR` field of a command. -/
def Instr.anchor : Instr → Anchor
  | .widenFp16 a _ | .widenBf16 a _ | .mulFp16 a _ | .selAnchor a _ | .alignFp16 a _ | .alignE4M3 a _
  | .reduce a _ | .requantBf16 a _ | .mac a _ => a

/-- The `COUNT` field of a command. -/
def Instr.count : Instr → Count
  | .widenFp16 _ n | .widenBf16 _ n | .mulFp16 _ n | .selAnchor _ n | .alignFp16 _ n | .alignE4M3 _ n
  | .reduce _ n | .requantBf16 _ n | .mac _ n => n

end Sys2Proof
end

