-- ==== Sys2Proof/Decode.lean ====
section
/-! DEFINITION. Decoding and encoding of the command word (30_encoding.md R47 to R50). Decoding is total: it answers an
operation, or names the first failing check of 60_exceptions.md R115 among those that the form of the word decides (1 and
2; check 3 is the operation's own). -/

namespace Sys2Proof

/-- `CMD.OP = CMD[3:0]` (30_encoding.md R47). -/
def opField (w : CmdWord) : BitVec 4 := w.extractLsb' 0 4

/-- `CMD.RSV0 = CMD[7:4]` (30_encoding.md R47). -/
def rsv0Field (w : CmdWord) : BitVec 4 := w.extractLsb' 4 4

/-- `CMD.ANCHOR = CMD[15:8]` (30_encoding.md R47). -/
def anchorField (w : CmdWord) : Anchor := w.extractLsb' 8 8

/-- `CMD.COUNT = CMD[21:16]` (30_encoding.md R47). -/
def countField (w : CmdWord) : Count := w.extractLsb' 16 6

/-- `CMD.RSV1 = CMD[31:22]` (30_encoding.md R47). -/
def rsv1Field (w : CmdWord) : BitVec 10 := w.extractLsb' 22 10

/-- The opcode map (30_encoding.md R49); `none` for the reserved values `0x9..0xF` (R50). -/
def instrOfOp (op : BitVec 4) (anchor : Anchor) (count : Count) : Option Instr :=
  match op.toNat with
  | 0 => some (.widenFp16 anchor count)
  | 1 => some (.widenBf16 anchor count)
  | 2 => some (.mulFp16 anchor count)
  | 3 => some (.selAnchor anchor count)
  | 4 => some (.alignFp16 anchor count)
  | 5 => some (.alignE4M3 anchor count)
  | 6 => some (.reduce anchor count)
  | 7 => some (.requantBf16 anchor count)
  | 8 => some (.mac anchor count)
  | _ => none

/-- The command a word stands for, or the first of checks 1 and 2 of 60_exceptions.md R115 that it fails: the opcode
before the reserved bits. -/
def decode (w : CmdWord) : Except CommandError Instr :=
  match instrOfOp (opField w) (anchorField w) (countField w) with
  | none => .error .reservedOpcode
  | some i => if rsv0Field w = 0 ∧ rsv1Field w = 0 then .ok i else .error .reservedBits

/-- The value of `OP` that selects an operation (30_encoding.md R49). -/
def opcode : Instr → BitVec 4
  | .widenFp16 _ _ => 0x0
  | .widenBf16 _ _ => 0x1
  | .mulFp16 _ _ => 0x2
  | .selAnchor _ _ => 0x3
  | .alignFp16 _ _ => 0x4
  | .alignE4M3 _ _ => 0x5
  | .reduce _ _ => 0x6
  | .requantBf16 _ _ => 0x7
  | .mac _ _ => 0x8

/-- The command word of an operation: `0000000000ccccccaaaaaaaa0000oooo` from bit 31 down (30_encoding.md R47). -/
def encode (i : Instr) : CmdWord :=
  (0 : BitVec 10) ++ i.count ++ i.anchor ++ (0 : BitVec 4) ++ opcode i

/-- The command that the decoder reads from a word given as a number of `nbits` bits, the bits above them zero. A command
is one 32-bit word (30_encoding.md R53). -/
def decodeTableWord (nbits w : Nat) : Option Instr :=
  match decode (BitVec.ofNat 32 (w % 2 ^ nbits)) with
  | .ok i => some i
  | .error _ => none

end Sys2Proof
end

