-- ==== Sys2Proof/Config.lean ====
section
/-! DEFINITION. What an instance of the block fixes and no operation can read or change: the parameters of 00_scope.md R9 to
R13, which are arguments of the model and not state (10_state.md R29); the instance that the machine is; and the free
values, each an `opaque` constant without a body, of which nothing can be proved (what the spec leaves OPEN or
unspecified). -/

namespace Sys2Proof

/-- The parameters of an instance of the block (10_state.md R29). Every definition of the model that depends on one takes
it as an argument. -/
structure Params where
  /-- `NMAX`: the number of lanes of the vector buses and the largest legal `COUNT` (00_scope.md R9). -/
  nmax : Nat
  /-- `CANON_NAN_FP16_MANT` (00_scope.md R10). -/
  canonNanFp16Mant : BitVec 10
  /-- `CANON_NAN_BF16_MANT` (00_scope.md R11). -/
  canonNanBf16Mant : BitVec 7
  /-- `LATENCY`: the clock cycles between acceptance and response (00_scope.md R13). -/
  latency : Nat
deriving DecidableEq, Repr

namespace Config

/-- The most lanes that the 6-bit `COUNT` of 30_encoding.md R47 can name (00_scope.md R12). An instance has the first
`NMAX` of them. -/
abbrev laneBound : Nat := 63

/-- The spec's default of `NMAX` (00_scope.md R9). -/
abbrev nmax : Nat := 32

/-- The spec's default of `CANON_NAN_FP16_MANT` (00_scope.md R10). -/
def canonNanFp16Mant : BitVec 10 := 0x200

/-- The spec's default of `CANON_NAN_BF16_MANT` (00_scope.md R11). -/
def canonNanBf16Mant : BitVec 7 := 0x40

/-- `LATENCY` of the machine (00_scope.md R13, OPEN, without a default): one number for the instance (10_state.md R29). A
free value: notes/assumptions/4.md. -/
opaque latency : Nat

/-- The instance that `exec` and `step` are: the defaults of the spec, and a free `LATENCY`. DESIGN CHOICE, unsafe for
another instance, which `execWith` and `stepWith` cover: notes/assumptions/2.md and 3.md. -/
def block : Params where
  nmax := nmax
  canonNanFp16Mant := canonNanFp16Mant
  canonNanBf16Mant := canonNanBf16Mant
  latency := latency

/-- The in-flight FIFO's depth is OPEN (10_state.md R27); it is this free value plus one, so at least one:
notes/assumptions/5.md. -/
opaque extraDepth : Nat

/-- The depth of the in-flight FIFO (10_state.md R27). -/
def fifoDepth : Nat := extraDepth + 1

/-- For how many cycles `req_ready` stays low after a given cycle in which it was high (or in which reset was held): any
finite number, so that acceptance is weakly fair (10_state.md R26). A free value: notes/assumptions/6.md. -/
opaque readyGap : Nat → Nat

/-- `resp_err` in a cycle with `resp_valid = 0`, unspecified (10_state.md R30). A free value: notes/assumptions/7.md. -/
opaque idleErr : Nat → Bool

/-- `resp_cause` in a cycle with `resp_valid = 0`, unspecified (10_state.md R30). A free value: notes/assumptions/7.md. -/
opaque idleCause : Nat → BitVec 2

/-- `R` in a cycle with `resp_valid = 0`, unspecified (10_state.md R30). A free value: notes/assumptions/7.md. -/
opaque idleData : Nat → RespData

end Config

/-- The parameter values that the spec allows: at least one lane, and no more than the 6-bit `COUNT` can name (00_scope.md
R9, R12); nonzero NaN mantissas (R10, R11); any latency (R13). -/
def Params.legal (p : Params) : Bool :=
  decide (1 ≤ p.nmax ∧ p.nmax ≤ Config.laneBound ∧ p.canonNanFp16Mant ≠ 0 ∧ p.canonNanBf16Mant ≠ 0)

end Sys2Proof
end

