-- ==== Sys2Proof/Machine/State.lean ====
section
/-! DEFINITION. The state of the block: the pins of its transaction interface and the in-flight FIFO (10_state.md R20,
R27, R30), which is all the state the spec gives it, and the three fields the open timing needs. No register, program
counter, flag, accumulator or memory exists (R19, R21 to R25). -/

namespace Sys2Proof.Machine

/-- The operand buses (10_state.md R20). The vector buses have as many lanes as a 6-bit `COUNT` can name, so that one
type serves every instance; an instance has the first `NMAX` of them, and nothing reads the others
(notes/assumptions/19.md). -/
structure Operands where
  /-- `A`, fp16. -/
  a : Fp16
  /-- `B`, fp16. -/
  b : Fp16
  /-- `C8`, e4m3. -/
  c8 : E4M3
  /-- `S32`, signed 32-bit. -/
  s32 : Fxp
  /-- `VA[0..NMAX-1]`, fp16 lanes. -/
  va : Vector Fp16 Config.laneBound
  /-- `VB[0..NMAX-1]`, fp16 lanes. -/
  vb : Vector Fp16 Config.laneBound
  /-- `VI[0..NMAX-1]`, signed 32-bit lanes. -/
  vi : Vector Fxp Config.laneBound
deriving DecidableEq, Repr

/-- The input pins (10_state.md R20), driven from outside the block. `clk` is the step itself (notes/assumptions/1.md). -/
structure Inputs where
  /-- `rst_n`, active low. -/
  rstN : Bool
  /-- `req_valid`. -/
  reqValid : Bool
  /-- `CMD`. -/
  cmd : CmdWord
  /-- The operand buses. -/
  operands : Operands
deriving DecidableEq, Repr

/-- A response, the triple `(resp_err, resp_cause, R)` (10_state.md R28). -/
structure Response where
  /-- `resp_err`: the command was illegal. -/
  err : Bool
  /-- `resp_cause`: the cause code if it was, else 0. -/
  cause : BitVec 2
  /-- `R`: the result data. -/
  data : RespData
deriving DecidableEq, Repr

/-- An entry of the in-flight FIFO: an accepted transaction, held as "its already computed response" (10_state.md R27),
and the cycles for which it still waits (LATENCY, open: notes/assumptions/4.md). -/
structure InFlight where
  response : Response
  wait : Nat
deriving DecidableEq, Repr

/-- The state of the block and of the pins it is connected to. -/
structure State where
  /-- The input pins, as they stand before the next clock edge. -/
  inputs : Inputs
  /-- The in-flight FIFO, oldest first (10_state.md R27). -/
  fifo : List InFlight
  /-- Whether the block offers `req_ready` in this cycle (10_state.md R26); the pin is also held low by `rst_n = 0`
  (70_reset_and_hazards.md R121). The model's own: notes/assumptions/6.md. -/
  ready : Bool
  /-- For how many cycles `req_ready` stays low still. The model's own: notes/assumptions/6.md. -/
  stall : Nat
  /-- The cycle counter to which the free values of `Config` are applied. The model's own: notes/assumptions/9.md. -/
  cycle : Nat
deriving DecidableEq, Repr

/-- A fault stops the machine. This hardware has none: no numeric input stops a transaction (60_exceptions.md R114) and no
trap is taken (R118), so no constructor exists, nothing raises one, and that is safe. -/
inductive Fault where
deriving DecidableEq, Repr

/-- A refusal is an instruction that the model gives no meaning. -/
inductive Refusal where
  /-- An operation of the opcode table without a meaning, by its mnemonic: raised only by an arm of `exec` (none at
  present). Safe: the model stops where the hardware goes on. -/
  | notModelled (mnemonic : String)
deriving DecidableEq, Repr

/-- Operand buses that carry zeros. -/
def Operands.zero : Operands where
  a := 0
  b := 0
  c8 := 0
  s32 := 0
  va := Vector.replicate Config.laneBound 0
  vb := Vector.replicate Config.laneBound 0
  vi := Vector.replicate Config.laneBound 0

/-- Input pins of a requester that offers nothing, with reset released. -/
def Inputs.idle : Inputs where
  rstN := true
  reqValid := false
  cmd := 0
  operands := Operands.zero

/-- The machine right after reset (10_state.md R30): the FIFO is empty, so no response is presented; when `req_ready`
rises is unspecified, hence free; the pins are an idle requester's. DESIGN CHOICE for the pins and the counter:
notes/assumptions/6.md, 8.md and 9.md. -/
def State.reset : State where
  inputs := Inputs.idle
  fifo := []
  ready := Config.readyGap 0 == 0
  stall := Config.readyGap 0
  cycle := 1

end Sys2Proof.Machine
end

