-- ==== Sys2Proof/Machine/Ops.lean ====
section
/-! DEFINITION. The named operations on the state: the output pins, one clock cycle of the FIFO and of `req_ready`,
accepting a transaction, the error response (the block's only "exception", 60_exceptions.md R115, R116: no trap is taken
and nothing returns from one, R118), and reset. -/

namespace Sys2Proof.Machine

/-- The response presented in this cycle: the oldest one, once its wait is over; none while `rst_n = 0`
(10_state.md R27, 70_reset_and_hazards.md R121). -/
def State.presented (s : State) : Option Response :=
  match s.inputs.rstN, s.fifo with
  | true, e :: _ => if e.wait = 0 then some e.response else none
  | _, _ => none

/-- The pin `resp_valid` (10_state.md R20). -/
def State.respValid (s : State) : Bool := s.presented.isSome

/-- The pin `resp_err`; unspecified, hence a free value, while `resp_valid = 0` (10_state.md R30). -/
def State.respErr (s : State) : Bool :=
  match s.presented with
  | some r => r.err
  | none => Config.idleErr s.cycle

/-- The pin `resp_cause`; a free value while `resp_valid = 0` (10_state.md R30). -/
def State.respCause (s : State) : BitVec 2 :=
  match s.presented with
  | some r => r.cause
  | none => Config.idleCause s.cycle

/-- The pins `R`; a free value while `resp_valid = 0` (10_state.md R30). -/
def State.respData (s : State) : RespData :=
  match s.presented with
  | some r => r.data
  | none => Config.idleData s.cycle

/-- The pin `req_ready`, held at 0 while `rst_n = 0` (70_reset_and_hazards.md R121). -/
def State.reqReady (s : State) : Bool := s.inputs.rstN && s.ready

/-- A request is accepted in this cycle: `req_valid = 1` and `req_ready = 1` (10_state.md R26). -/
def State.handshake (s : State) : Bool := s.inputs.reqValid && s.reqReady

/-- The command word sampled in this cycle, if a request is accepted (10_state.md R26). -/
def State.sampled (s : State) : Option CmdWord :=
  if s.handshake then some s.inputs.cmd else none

/-- One cycle of an in-flight entry's wait. -/
def InFlight.tick (e : InFlight) : InFlight := { e with wait := e.wait - 1 }

/-- The FIFO after one cycle without reset: the response that was presented leaves, the others wait one cycle less. A
response is presented for one cycle, since the interface has no signal to hold it (10_state.md R20, R27). -/
def retire : List InFlight → List InFlight
  | [] => []
  | e :: rest => if e.wait = 0 then rest.map InFlight.tick else (e :: rest).map InFlight.tick

/-- One clock cycle without reset, in which the given entries join the FIFO at its end. `req_ready` falls for a free
number of cycles after each cycle in which it was high, and then waits for room in the FIFO (10_state.md R26, R27). -/
def State.clock (s : State) (entering : List InFlight) : State :=
  let fifo := retire s.fifo ++ entering
  let stall := if s.ready then Config.readyGap s.cycle else s.stall - 1
  { s with
    fifo := fifo
    ready := stall == 0 && decide (fifo.length < Config.fifoDepth)
    stall := stall
    cycle := s.cycle + 1 }

/-- The cycle in which an instance accepts a transaction: the response joins the FIFO, to wait for the instance's
`LATENCY` (10_state.md R27, 00_scope.md R13). -/
def State.acceptWith (p : Params) (s : State) (r : Response) : State := s.clock [⟨r, p.latency⟩]

/-- The cycle in which the machine's own instance accepts a transaction. -/
def State.accept (s : State) (r : Response) : State := s.acceptWith Config.block r

/-- A cycle in which no transaction is accepted and reset is not held. -/
def State.idle (s : State) : State := s.clock []

/-- A cycle with `rst_n = 0`: every in-flight transaction is discarded (70_reset_and_hazards.md R121). When `req_ready`
rises afterwards is free (10_state.md R30). -/
def State.resetCycle (s : State) : State :=
  { s with
    fifo := []
    ready := Config.readyGap s.cycle == 0
    stall := Config.readyGap s.cycle
    cycle := s.cycle + 1 }

/-- The response of a legal command: no error, cause 0, and the result (10_state.md R28). -/
def okResponse (data : RespData) : Response := ⟨false, 0, data⟩

/-- The cause code of an illegal command (60_exceptions.md R115). -/
def causeCode : CommandError → BitVec 2
  | .reservedOpcode => 1
  | .reservedBits => 2
  | .countOutOfRange => 3

/-- The error response (60_exceptions.md R116): `resp_err = 1`, the cause code, `R = 0`. -/
def errorResponse (e : CommandError) : Response := ⟨true, causeCode e, 0⟩

/-- An accepted illegal command: no operation is performed, and the error response is delivered in order like any other
(60_exceptions.md R116). The one shared operation for every illegal command. -/
def State.illegalWith (p : Params) (s : State) (e : CommandError) : State := s.acceptWith p (errorResponse e)

/-- The cycle of an operation that uses `COUNT`: with a count in range its result is the response, with another the
command is illegal (60_exceptions.md R115, cause 3). -/
def State.acceptCounted (p : Params) (s : State) (inRange : Bool) (data : RespData) : State :=
  if inRange then s.acceptWith p (okResponse data) else s.illegalWith p .countOutOfRange

/-- The requester, or the reset source, drives the input pins anew (10_state.md R20). -/
def State.drive (s : State) (inputs : Inputs) : State := { s with inputs := inputs }

end Sys2Proof.Machine
end

