-- ==== Sys2Proof/Machine/Cycle.lean ====
section
/-! DEFINITION. One clock cycle of an instance, given what its operations do. -/

namespace Sys2Proof.Machine

/-- One clock cycle. With `rst_n = 0` the block is held in reset (70_reset_and_hazards.md R121). Otherwise an offered
request is accepted if the block is ready (10_state.md R26): a legal-form command is executed, any other gets the error
response (60_exceptions.md R116). Otherwise the in-flight responses move on. -/
def cycleOf (p : Params) (run : Instr → State → Host.Outcome State Fault Refusal) (s : State) :
    Host.Outcome State Fault Refusal :=
  match s.inputs.rstN with
  | false => .next s.resetCycle
  | true =>
    match s.sampled with
    | none => .next s.idle
    | some w =>
      match decode w with
      | .ok i => run i s
      | .error e => .next (s.illegalWith p e)

end Sys2Proof.Machine
end

