-- ==== Sys2Proof/Machine/Formats.lean ====
section
/-! DEFINITION. The format_decoder's functions on bit patterns: decode, encode, significand and exponent
(40_format_decoder.md R56, R57, R60, R61), the format constants (00_scope.md R8) and the integer primitives of the
pseudocode (00_scope.md R15). Arithmetic is exact, over the integers. -/

namespace Sys2Proof.Machine

/-- The fields of a floating-point pattern: sign, exponent field, mantissa field. -/
structure Unpacked where
  /-- The sign bit `s`. -/
  sign : Bool
  /-- The exponent field `ef`. -/
  ef : Nat
  /-- The mantissa field `mf`. -/
  mf : Nat
deriving DecidableEq, Repr

/-- The constants of a format (00_scope.md R8). -/
structure FloatFormat where
  /-- The bias `B`. -/
  bias : Nat
  /-- The number of fraction bits `FB`. -/
  fracBits : Nat
deriving DecidableEq, Repr

/-- e4m3: bias 7, 3 fraction bits. -/
def e4m3Format : FloatFormat := ⟨7, 3⟩

/-- fp16: bias 15, 10 fraction bits. -/
def fp16Format : FloatFormat := ⟨15, 10⟩

/-- bf16: bias 127, 7 fraction bits. -/
def bf16Format : FloatFormat := ⟨127, 7⟩

/-- `dec_e4m3` (40_format_decoder.md R56). -/
def decE4M3 (x : E4M3) : Unpacked :=
  ⟨x.getLsbD 7, (x.extractLsb' 3 4).toNat, (x.extractLsb' 0 3).toNat⟩

/-- `dec_fp16` (40_format_decoder.md R57). -/
def decFp16 (x : Fp16) : Unpacked :=
  ⟨x.getLsbD 15, (x.extractLsb' 10 5).toNat, (x.extractLsb' 0 10).toNat⟩

/-- `dec_bf16` (40_format_decoder.md R57). -/
def decBf16 (x : Bf16) : Unpacked :=
  ⟨x.getLsbD 15, (x.extractLsb' 7 8).toNat, (x.extractLsb' 0 7).toNat⟩

/-- `enc_e4m3` (40_format_decoder.md R61). -/
def encE4M3 (s : Bool) (ef mf : Nat) : E4M3 :=
  BitVec.ofBool s ++ BitVec.ofNat 4 ef ++ BitVec.ofNat 3 mf

/-- `enc_fp16` (40_format_decoder.md R61). -/
def encFp16 (s : Bool) (ef mf : Nat) : Fp16 :=
  BitVec.ofBool s ++ BitVec.ofNat 5 ef ++ BitVec.ofNat 10 mf

/-- `enc_bf16` (40_format_decoder.md R61). -/
def encBf16 (s : Bool) (ef mf : Nat) : Bf16 :=
  BitVec.ofBool s ++ BitVec.ofNat 8 ef ++ BitVec.ofNat 7 mf

/-- The integer significand `S` of `sig_exp_f` (40_format_decoder.md R60). A pattern with an all-ones exponent field takes
the normal line with its fields as they stand (43_fxp_aligner_pipeline.md R88). -/
def significand (f : FloatFormat) (u : Unpacked) : Nat :=
  if u.ef = 0 then u.mf else 2 ^ f.fracBits + u.mf

/-- The unbiased exponent `E` of `sig_exp_f` (40_format_decoder.md R60): `1 - bias` for a zero exponent field. -/
def unbiasedExp (f : FloatFormat) (u : Unpacked) : Int :=
  if u.ef = 0 then 1 - f.bias else u.ef - f.bias

/-- `bitlen` (00_scope.md R15): the number of bits in the binary form, 0 for 0. -/
def bitlen (n : Nat) : Nat := if n = 0 then 0 else Nat.log2 n + 1

/-- `msb` (00_scope.md R15): the index of the most significant set bit of a positive number. -/
def msb (n : Nat) : Nat := bitlen n - 1

/-- `clamp` (00_scope.md R15). -/
def clamp (v lo hi : Int) : Int := min hi (max lo v)

/-- `wrap32` (00_scope.md R15): the signed 32-bit reading of an integer modulo `2^32`. -/
def wrap32 (v : Int) : Int := Int.bmod v (2 ^ 32)

/-- `u32` (00_scope.md R15): the 32-bit pattern of a signed value. -/
def u32 (v : Int) : Fxp := BitVec.ofInt 32 v

end Sys2Proof.Machine
end

