-- ==== Sys2Proof/Machine/Operands.lean ====
section
/-! DEFINITION. Operand assembly (30_encoding.md R51, R52): how an operation reads the command's fields and the operand
buses. Nothing is scaled or shifted. -/

namespace Sys2Proof.Machine

/-- `CMD.ANCHOR`, zero-extended (30_encoding.md R52). -/
def anchorOperand (anchor : Anchor) : Nat := anchor.toNat

/-- `CMD.COUNT`, zero-extended (30_encoding.md R52). -/
def countOperand (count : Count) : Nat := count.toNat

/-- `S32` or a lane of `VI`, read signed (30_encoding.md R52). -/
def signedOperand (x : Fxp) : Int := x.toInt

/-- Lanes `0..COUNT-1` of a vector bus; the lanes at `COUNT` and above are ignored (30_encoding.md R51). -/
def lanesUsed {w : Nat} (lanes : Vector (BitVec w) Config.laneBound) (count : Count) : List (BitVec w) :=
  lanes.toList.take (countOperand count)

/-- Whether a used `COUNT` is at most the instance's `NMAX` (30_encoding.md R48). -/
def countLegal (nmax : Nat) (count : Count) : Bool := decide (countOperand count ≤ nmax)

/-- The data bus for a result of 16 bits, zero-extended (10_state.md R20). -/
def data16 (x : BitVec 16) : RespData := x.setWidth 32

/-- The data bus for a result of 8 bits, zero-extended (10_state.md R20). -/
def data8 (x : BitVec 8) : RespData := x.setWidth 32

/-- Lane `i` of a vector operand carried on one flat bus: bits `[w*i + w - 1 : w*i]` (20_memory.md R32). -/
def laneOfFlat (w : Nat) {n : Nat} (flat : BitVec (w * n)) (i : Nat) : BitVec w := flat.extractLsb' (w * i) w

theorem takeD_toArray_size {α : Type} (n : Nat) (xs : List α) (d : α) : (xs.takeD n d).toArray.size = n := by
  simp

/-- The lanes that a requester fills from a list, the rest of them zero. -/
def lanesOfList {w : Nat} (xs : List (BitVec w)) : Vector (BitVec w) Config.laneBound :=
  ⟨(xs.takeD Config.laneBound 0).toArray, takeD_toArray_size _ xs 0⟩

/-- The lanes of a flat bus of `n` lanes (20_memory.md R32). -/
def lanesOfFlat (w : Nat) {n : Nat} (flat : BitVec (w * n)) : Vector (BitVec w) Config.laneBound :=
  lanesOfList ((List.range n).map (laneOfFlat w flat))

end Sys2Proof.Machine
end

