-- ==== Sys2Proof/Machine/Accumulator.lean ====
section
/-! DEFINITION. The fixed_point_accumulator and its operation `REDUCE` (44_fixed_point_accumulator.md R100, R101). It holds
no running state between transactions (10_state.md R24). -/

namespace Sys2Proof.Machine

/-- `reduce`: the sum initialized with the addend, each term added with a wrap to 32 bits (44_fixed_point_accumulator.md
R101). -/
def reduceTerms (terms : List Fxp) (addend : Fxp) : Fxp :=
  u32 (terms.foldl (fun acc t => wrap32 (acc + signedOperand t)) (signedOperand addend))

/-- `REDUCE` (44_fixed_point_accumulator.md R101) in an instance: reads `COUNT`, the terms on `VI` and the addend on
`S32`; `ANCHOR` is ignored. A count above `NMAX` is illegal (60_exceptions.md R115). -/
def execReduceWith (p : Params) (_anchor : Anchor) (count : Count) (s : State) : Host.Outcome State Fault Refusal :=
  .next (s.acceptCounted p (countLegal p.nmax count)
    (reduceTerms (lanesUsed s.inputs.operands.vi count) s.inputs.operands.s32))

/-- `REDUCE` in the machine's instance. -/
def execReduce (anchor : Anchor) (count : Count) (s : State) : Host.Outcome State Fault Refusal :=
  execReduceWith Config.block anchor count s

end Sys2Proof.Machine
end

