-- ==== Sys2Proof/Machine/Aligner.lean ====
section
/-! DEFINITION. The fxp_aligner_pipeline and its operations `ALIGN.FP16` and `ALIGN.E4M3` (43_fxp_aligner_pipeline.md R87
to R97): the two differ only in the format. -/

namespace Sys2Proof.Machine

/-- The shift amount (43_fxp_aligner_pipeline.md R90). -/
def alignShift (f : FloatFormat) (u : Unpacked) (anchor : Nat) : Int :=
  (f.fracBits : Int) + anchor - 31 - unbiasedExp f u

/-- The magnitude of the aligned value (43_fxp_aligner_pipeline.md R91 to R94): 0 below the window, truncation, the low 32
bits of a left shift, and 0 past the top of the window. -/
def alignMag (sig : Nat) (shift : Int) : Nat :=
  if 32 ≤ shift then 0
  else if 0 ≤ shift then sig >>> shift.toNat
  else if -31 ≤ shift then (sig <<< (-shift).toNat) % 2 ^ 32
  else 0

/-- `align` on the fields of a pattern (43_fxp_aligner_pipeline.md R89, R95). -/
def alignFields (f : FloatFormat) (u : Unpacked) (anchor : Nat) : Fxp :=
  if u.ef = 0 ∧ u.mf = 0 then 0
  else
    let mag : Int := alignMag (significand f u) (alignShift f u anchor)
    u32 (wrap32 (if u.sign then -mag else mag))

/-- `align_fp16` (43_fxp_aligner_pipeline.md R96). -/
def alignFp16 (a : Fp16) (anchor : Anchor) : Fxp := alignFields fp16Format (decFp16 a) (anchorOperand anchor)

/-- `align_e4m3` (43_fxp_aligner_pipeline.md R97); the NaN sentinel aligns as -480 (R88). -/
def alignE4M3 (c : E4M3) (anchor : Anchor) : Fxp := alignFields e4m3Format (decE4M3 c) (anchorOperand anchor)

/-- `ALIGN.FP16` (43_fxp_aligner_pipeline.md R96) in an instance: reads `A` and `ANCHOR`; `COUNT` is ignored. -/
def execAlignFp16With (p : Params) (anchor : Anchor) (_count : Count) (s : State) : Host.Outcome State Fault Refusal :=
  .next (s.acceptWith p (okResponse (alignFp16 s.inputs.operands.a anchor)))

/-- `ALIGN.FP16` in the machine's instance. -/
def execAlignFp16 (anchor : Anchor) (count : Count) (s : State) : Host.Outcome State Fault Refusal :=
  execAlignFp16With Config.block anchor count s

/-- `ALIGN.E4M3` (43_fxp_aligner_pipeline.md R97) in an instance: reads `C8` and `ANCHOR`; `COUNT` is ignored. -/
def execAlignE4M3With (p : Params) (anchor : Anchor) (_count : Count) (s : State) : Host.Outcome State Fault Refusal :=
  .next (s.acceptWith p (okResponse (alignE4M3 s.inputs.operands.c8 anchor)))

/-- `ALIGN.E4M3` in the machine's instance. -/
def execAlignE4M3 (anchor : Anchor) (count : Count) (s : State) : Host.Outcome State Fault Refusal :=
  execAlignE4M3With Config.block anchor count s

end Sys2Proof.Machine
end

