-- ==== Sys2Proof/Machine/AnchorSelector.lean ====
section
/-! DEFINITION. The anchor_exponent_selector and its operation `SEL.ANCHOR` (42_anchor_exponent_selector.md R81 to R85). -/

namespace Sys2Proof.Machine

/-- A product's exponent for the comparison, of any pattern as it stands (42_anchor_exponent_selector.md R81). -/
def productExp (p : Fp16) : Int := ((decFp16 p).ef : Int) - 15

/-- The addend's exponent for the comparison (42_anchor_exponent_selector.md R81). -/
def addendExp (c : E4M3) : Int := ((decE4M3 c).ef : Int) - 7

/-- The running maximum, initialized with the addend's exponent (42_anchor_exponent_selector.md R82). -/
def maxExp (products : List Fp16) (c : E4M3) : Int :=
  products.foldl (fun m p => max m (productExp p)) (addendExp c)

/-- The headroom `h(N)` (42_anchor_exponent_selector.md R83). -/
def headroom (n : Nat) : Nat := bitlen n + 1

/-- `select_anchor`: the maximum plus the headroom, clamped to 8 bits (42_anchor_exponent_selector.md R84, R85). -/
def selectAnchor (products : List Fp16) (c : E4M3) : Anchor :=
  BitVec.ofNat 8 (clamp (maxExp products c + headroom products.length) 0 255).toNat

/-- `SEL.ANCHOR` (42_anchor_exponent_selector.md R85) in an instance: reads `COUNT`, the products on `VA` and the addend
on `C8`; `ANCHOR` is ignored. A count above `NMAX` is illegal (60_exceptions.md R115). -/
def execSelAnchorWith (p : Params) (_anchor : Anchor) (count : Count) (s : State) : Host.Outcome State Fault Refusal :=
  .next (s.acceptCounted p (countLegal p.nmax count)
    (data8 (selectAnchor (lanesUsed s.inputs.operands.va count) s.inputs.operands.c8)))

/-- `SEL.ANCHOR` in the machine's instance. -/
def execSelAnchor (anchor : Anchor) (count : Count) (s : State) : Host.Outcome State Fault Refusal :=
  execSelAnchorWith Config.block anchor count s

end Sys2Proof.Machine
end

