-- ==== Sys2Proof/Machine/Multiplier.lean ====
section
/-! DEFINITION. The fp16_multiplier and its operation `MUL.FP16` (41_fp16_multiplier.md R68 to R78). -/

namespace Sys2Proof.Machine

/-- The exact product of the 11-bit significands (41_fp16_multiplier.md R71). The implicit 1 is there for an exponent
field of 31 too (R70). -/
def mulProduct (ua ub : Unpacked) : Nat := (1024 + ua.mf) * (1024 + ub.mf)

/-- How far the product is shifted down: 11 if bit 21 is set, else 10 (41_fp16_multiplier.md R72). -/
def mulShift (p : Nat) : Nat := if p.testBit 21 then 11 else 10

/-- The exponent of the product, incremented when it is normalized (41_fp16_multiplier.md R71, R72). -/
def mulExp (ua ub : Unpacked) : Int :=
  ((ua.ef : Int) - 15) + ((ub.ef : Int) - 15) + (if (mulProduct ua ub).testBit 21 then 1 else 0)

/-- The ten mantissa bits and the rounding, to nearest with ties to even, by every bit below them, the one that the
normalization shifts out among them (41_fp16_multiplier.md R72, R73). The answer may be 1024. -/
def mulRound (p : Nat) : Nat :=
  let sh := mulShift p
  let m := (p >>> sh) % 1024
  let rem := p % 2 ^ sh
  let half := 2 ^ (sh - 1)
  if half < rem ∨ (rem = half ∧ m % 2 = 1) then m + 1 else m

/-- The range checks on the rounded result, and packing (41_fp16_multiplier.md R75). -/
def mulPack (sign : Bool) (eb : Int) (m : Nat) : Fp16 :=
  if 31 ≤ eb then encFp16 sign 31 0
  else if eb ≤ 0 then encFp16 sign 0 0
  else encFp16 sign eb.toNat m

/-- `multiply_fp16` (41_fp16_multiplier.md R78). -/
def mulFp16 (a b : Fp16) : Fp16 :=
  let ua := decFp16 a
  let ub := decFp16 b
  let sign := xor ua.sign ub.sign
  if ua.ef = 0 ∨ ub.ef = 0 then encFp16 sign 0 0
  else
    let m := mulRound (mulProduct ua ub)
    let e := mulExp ua ub
    if m = 1024 then mulPack sign (e + 1 + 15) 0 else mulPack sign (e + 15) m

/-- `MUL.FP16` (41_fp16_multiplier.md R78) in an instance: reads `A` and `B`; both fields of the command are ignored. -/
def execMulFp16With (p : Params) (_anchor : Anchor) (_count : Count) (s : State) : Host.Outcome State Fault Refusal :=
  .next (s.acceptWith p (okResponse (data16 (mulFp16 s.inputs.operands.a s.inputs.operands.b))))

/-- `MUL.FP16` in the machine's instance. -/
def execMulFp16 (anchor : Anchor) (count : Count) (s : State) : Host.Outcome State Fault Refusal :=
  execMulFp16With Config.block anchor count s

end Sys2Proof.Machine
end

