-- ==== Sys2Proof/Machine/Requantizer.lean ====
section
/-! DEFINITION. The fxp_to_bf16_requantizer and its operation `REQUANT.BF16` (45_fxp_to_bf16_requantizer.md R103 to
R110). -/

namespace Sys2Proof.Machine

/-- The biased exponent before rounding (45_fxp_to_bf16_requantizer.md R105). -/
def requantExp (k anchor : Nat) : Int := (k : Int) + anchor - 31 + 127

/-- The rounded mantissa when bits remain below the kept window, `8 ≤ k` (45_fxp_to_bf16_requantizer.md R107). The answer
may be 128. -/
def requantRound (mag k : Nat) : Nat :=
  let m := (mag >>> (k - 7)) % 128
  let guard := mag.testBit (k - 8)
  let sticky := decide (mag % 2 ^ (k - 8) ≠ 0)
  if guard && (sticky || decide (m % 2 = 1)) then m + 1 else m

/-- The mantissa before a carry is dealt with, by how many bits lie below the most significant one
(45_fxp_to_bf16_requantizer.md R107, R109). -/
def requantMant (mag k : Nat) : Nat :=
  if 8 ≤ k then requantRound mag k
  else if k = 7 then mag % 128
  else (mag <<< (7 - k)) % 128

/-- The rounding carry, with the overflow check repeated, and packing (45_fxp_to_bf16_requantizer.md R108). -/
def requantPack (sign : Bool) (eb : Int) (m : Nat) : Bf16 :=
  if m = 128 then (if 255 ≤ eb + 1 then encBf16 sign 255 0 else encBf16 sign (eb + 1).toNat 0)
  else encBf16 sign eb.toNat m

/-- `requantize_to_bf16` (45_fxp_to_bf16_requantizer.md R110): both range checks come before the rounding (R106); the
magnitude of `-2^31` is `2^31` (R104). -/
def requantBf16 (sum : Fxp) (anchor : Anchor) : Bf16 :=
  let t := signedOperand sum
  if t = 0 then 0
  else
    let sign := decide (t < 0)
    let mag := t.natAbs
    let k := msb mag
    let eb := requantExp k (anchorOperand anchor)
    if eb ≤ 0 then encBf16 sign 0 0
    else if 255 ≤ eb then encBf16 sign 255 0
    else requantPack sign eb (requantMant mag k)

/-- `REQUANT.BF16` (45_fxp_to_bf16_requantizer.md R110) in an instance: reads `S32` and `ANCHOR`; `COUNT` is ignored. -/
def execRequantBf16With (p : Params) (anchor : Anchor) (_count : Count) (s : State) : Host.Outcome State Fault Refusal :=
  .next (s.acceptWith p (okResponse (data16 (requantBf16 s.inputs.operands.s32 anchor))))

/-- `REQUANT.BF16` in the machine's instance. -/
def execRequantBf16 (anchor : Anchor) (count : Count) (s : State) : Host.Outcome State Fault Refusal :=
  execRequantBf16With Config.block anchor count s

end Sys2Proof.Machine
end

