-- ==== Sys2Proof/Machine/Mac.lean ====
section
/-! DEFINITION. The composite operation `MAC` (46_mac_composite.md R112): the six units in the order of 00_scope.md R3,
with no numeric behaviour of its own. -/

namespace Sys2Proof.Machine

/-- The products of the lane pairs (46_mac_composite.md R112). -/
def macProducts (va vb : List Fp16) : List Fp16 := List.zipWith mulFp16 va vb

/-- The anchor of a batch of products and its addend (46_mac_composite.md R112). -/
def macAnchor (va vb : List Fp16) (c : E4M3) : Anchor := selectAnchor (macProducts va vb) c

/-- The sum of the aligned terms of a batch (46_mac_composite.md R112). -/
def macSum (va vb : List Fp16) (c : E4M3) : Fxp :=
  let anchor := macAnchor va vb c
  reduceTerms ((macProducts va vb).map (alignFp16 · anchor)) (alignE4M3 c anchor)

/-- The dot product of a batch (46_mac_composite.md R112). -/
def macBf16 (va vb : List Fp16) (c : E4M3) : Bf16 := requantBf16 (macSum va vb c) (macAnchor va vb c)

/-- `MAC` (46_mac_composite.md R112) in an instance: reads `COUNT`, `VA`, `VB` and `C8`; `ANCHOR` is ignored. A count
above `NMAX` is illegal (60_exceptions.md R115). -/
def execMacWith (p : Params) (_anchor : Anchor) (count : Count) (s : State) : Host.Outcome State Fault Refusal :=
  .next (s.acceptCounted p (countLegal p.nmax count)
    (data16 (macBf16 (lanesUsed s.inputs.operands.va count) (lanesUsed s.inputs.operands.vb count)
      s.inputs.operands.c8)))

/-- `MAC` in the machine's instance. -/
def execMac (anchor : Anchor) (count : Count) (s : State) : Host.Outcome State Fault Refusal :=
  execMacWith Config.block anchor count s

end Sys2Proof.Machine
end

