-- ==== Sys2Proof/Machine/Widen.lean ====
section
/-! DEFINITION. The format_decoder's two operations, `WIDEN.FP16` and `WIDEN.BF16` (40_format_decoder.md R62 to R67). -/

namespace Sys2Proof.Machine

/-- Subnormal normalization (40_format_decoder.md R63): the exponent of a nonzero e4m3 mantissa field once its leading 1
is at the implicit-bit position. -/
def normalizedExp (mf : Nat) : Int := (1 - 7) - (3 - (msb mf : Int))

/-- Subnormal normalization (40_format_decoder.md R63): the three bits below the new leading 1. -/
def normalizedMant (mf : Nat) : Nat := (mf <<< (3 - msb mf)) % 8

/-- The exponent with which a nonzero e4m3 pattern other than the sentinel widens (40_format_decoder.md R65, R66). -/
def widenExp (u : Unpacked) : Int := if u.ef = 0 then normalizedExp u.mf else u.ef - 7

/-- The three mantissa bits with which it widens (40_format_decoder.md R65, R66). -/
def widenMant (u : Unpacked) : Nat := if u.ef = 0 then normalizedMant u.mf else u.mf

/-- `widen_to_fp16`, given the canonical NaN's mantissa (40_format_decoder.md R64, R65). -/
def widenFp16 (nanMant : BitVec 10) (x : E4M3) : Fp16 :=
  let u := decE4M3 x
  if x = 0xFF then encFp16 true 31 nanMant.toNat
  else if u.ef = 0 ∧ u.mf = 0 then encFp16 u.sign 0 0
  else encFp16 u.sign (widenExp u + 15).toNat (widenMant u <<< 7)

/-- `widen_to_bf16`, given the canonical NaN's mantissa (40_format_decoder.md R64, R66). -/
def widenBf16 (nanMant : BitVec 7) (x : E4M3) : Bf16 :=
  let u := decE4M3 x
  if x = 0xFF then encBf16 true 255 nanMant.toNat
  else if u.ef = 0 ∧ u.mf = 0 then encBf16 u.sign 0 0
  else encBf16 u.sign (widenExp u + 127).toNat (widenMant u <<< 4)

/-- `WIDEN.FP16` (40_format_decoder.md R65) in an instance: reads `C8`; both fields of the command are ignored
(30_encoding.md R48). -/
def execWidenFp16With (p : Params) (_anchor : Anchor) (_count : Count) (s : State) : Host.Outcome State Fault Refusal :=
  .next (s.acceptWith p (okResponse (data16 (widenFp16 p.canonNanFp16Mant s.inputs.operands.c8))))

/-- `WIDEN.FP16` in the machine's instance. -/
def execWidenFp16 (anchor : Anchor) (count : Count) (s : State) : Host.Outcome State Fault Refusal :=
  execWidenFp16With Config.block anchor count s

/-- `WIDEN.BF16` (40_format_decoder.md R66) in an instance: reads `C8`; both fields of the command are ignored. -/
def execWidenBf16With (p : Params) (_anchor : Anchor) (_count : Count) (s : State) : Host.Outcome State Fault Refusal :=
  .next (s.acceptWith p (okResponse (data16 (widenBf16 p.canonNanBf16Mant s.inputs.operands.c8))))

/-- `WIDEN.BF16` in the machine's instance. -/
def execWidenBf16 (anchor : Anchor) (count : Count) (s : State) : Host.Outcome State Fault Refusal :=
  execWidenBf16With Config.block anchor count s

end Sys2Proof.Machine
end

