-- ==== Sys2Proof/Machine/Dispatch.lean ====
section
/-! DEFINITION. `exec`: what an accepted command does, one arm per constructor of `Instr`. -/

namespace Sys2Proof.Machine

/-- The meaning of an accepted command (30_encoding.md R49), in the cycle in which it is accepted. -/
def exec (i : Instr) (s : State) : Host.Outcome State Fault Refusal :=
  match i with
  | .widenFp16 anchor count => Sys2Proof.Machine.execWidenFp16 anchor count s
  | .widenBf16 anchor count => Sys2Proof.Machine.execWidenBf16 anchor count s
  | .mulFp16 anchor count => Sys2Proof.Machine.execMulFp16 anchor count s
  | .selAnchor anchor count => Sys2Proof.Machine.execSelAnchor anchor count s
  | .alignFp16 anchor count => Sys2Proof.Machine.execAlignFp16 anchor count s
  | .alignE4M3 anchor count => Sys2Proof.Machine.execAlignE4M3 anchor count s
  | .reduce anchor count => Sys2Proof.Machine.execReduce anchor count s
  | .requantBf16 anchor count => Sys2Proof.Machine.execRequantBf16 anchor count s
  | .mac anchor count => Sys2Proof.Machine.execMac anchor count s

end Sys2Proof.Machine
end

