-- ==== Sys2Proof/Machine/Step.lean ====
section
/-! DEFINITION. One step: one clock cycle of the block (notes/assumptions/1.md). -/

namespace Sys2Proof.Machine

/-- One clock cycle of the machine's instance (30_encoding.md R49, 60_exceptions.md R116). -/
def step (s : State) : Host.Outcome State Fault Refusal := cycleOf Config.block exec s

/-- The pins set so that the very next step accepts the command word `w` of `nbits` bits: the requester offers it, reset
is released, and the block is ready (notes/assumptions/12.md). -/
def State.withFetchWord (s : State) (nbits w : Nat) : State :=
  { s with
    inputs := { s.inputs with rstN := true, reqValid := true, cmd := BitVec.ofNat 32 (w % 2 ^ nbits) }
    ready := true }

end Sys2Proof.Machine
end

