-- ==== Sys2Proof/Machine/Flags.lean ====
section
/-! DEFINITION. The block has no flag of any kind (10_state.md R22), so no flag is computed here. What the source calls
classification is visible in the result pattern alone (60_exceptions.md R114); this file holds the classes of the three
formats (40_format_decoder.md R58) and the real value that a pattern denotes (R59). No operation reads them. -/

namespace Sys2Proof.Machine

/-- The classes of a pattern (40_format_decoder.md R58). -/
inductive FloatClass where
  | zero
  | subnormal
  | normal
  | inf
  | nan
deriving DecidableEq, Repr

/-- `class_e4m3` (40_format_decoder.md R58): the only NaN is `0xFF`, and there is no infinity. -/
def classE4M3 (x : E4M3) : FloatClass :=
  if x = 0xFF then .nan
  else if (decE4M3 x).ef = 0 then (if (decE4M3 x).mf = 0 then .zero else .subnormal)
  else .normal

/-- `class_f` for the formats with an infinity, by the all-ones exponent field (40_format_decoder.md R58). -/
def classOf (emax : Nat) (u : Unpacked) : FloatClass :=
  if u.ef = 0 then (if u.mf = 0 then .zero else .subnormal)
  else if u.ef = emax then (if u.mf = 0 then .inf else .nan)
  else .normal

/-- `class_fp16` (40_format_decoder.md R58). -/
def classFp16 (x : Fp16) : FloatClass := classOf 31 (decFp16 x)

/-- `class_bf16` (40_format_decoder.md R58). -/
def classBf16 (x : Bf16) : FloatClass := classOf 255 (decBf16 x)

/-- Whether a class has a real value (40_format_decoder.md R59). -/
def FloatClass.isFinite : FloatClass → Bool
  | .zero => true
  | .subnormal => true
  | .normal => true
  | .inf => false
  | .nan => false

/-- What a pattern denotes (40_format_decoder.md R59, 00_scope.md R17): a real number, an infinity with its sign, or no
number. The real numbers of the formats are rational. -/
inductive Denotation where
  | real (value : ℚ)
  | infinity (negative : Bool)
  | notANumber
deriving DecidableEq, Repr

/-- `(-1)^s × S × 2^(E - FB)` (40_format_decoder.md R60): the real value of a finite pattern. The selector, multiplier and
aligner take every other pattern as this number too, with its fields as they stand (41_fp16_multiplier.md R70,
43_fxp_aligner_pipeline.md R88); that is no value of the pattern. -/
def literalValue (f : FloatFormat) (u : Unpacked) : ℚ :=
  (if u.sign then -1 else 1) * (significand f u : ℚ) * (2 : ℚ) ^ (unbiasedExp f u - f.fracBits)

/-- An e4m3 pattern's fields as a number: its value, and -480 for the sentinel (43_fxp_aligner_pipeline.md R88). -/
def literalE4M3 (x : E4M3) : ℚ := literalValue e4m3Format (decE4M3 x)

/-- An fp16 pattern's fields as a number: its value, and with exponent field 31 the number as which the multiplier and the
aligner take it (41_fp16_multiplier.md R70, 43_fxp_aligner_pipeline.md R88). -/
def literalFp16 (x : Fp16) : ℚ := literalValue fp16Format (decFp16 x)

/-- A bf16 pattern's fields as a number: its value, for a finite pattern; no operation takes a bf16 operand. -/
def literalBf16 (x : Bf16) : ℚ := literalValue bf16Format (decBf16 x)

/-- `value_f` by class (40_format_decoder.md R59). -/
def denotationOf (c : FloatClass) (f : FloatFormat) (u : Unpacked) : Denotation :=
  match c with
  | .zero => .real 0
  | .subnormal => .real (literalValue f u)
  | .normal => .real (literalValue f u)
  | .inf => .infinity u.sign
  | .nan => .notANumber

/-- `value_e4m3` (40_format_decoder.md R59). -/
def valueE4M3 (x : E4M3) : Denotation := denotationOf (classE4M3 x) e4m3Format (decE4M3 x)

/-- `value_fp16` (40_format_decoder.md R59). -/
def valueFp16 (x : Fp16) : Denotation := denotationOf (classFp16 x) fp16Format (decFp16 x)

/-- `value_bf16` (40_format_decoder.md R59). -/
def valueBf16 (x : Bf16) : Denotation := denotationOf (classBf16 x) bf16Format (decBf16 x)

end Sys2Proof.Machine
end

