-- ==== Sys2Proof/Machine/Instances.lean ====
section
/-! DEFINITION. The block with its parameters as arguments (10_state.md R29): `exec` and `step` for any instance. Those of
Dispatch.lean and Step.lean are the instance `Config.block`. -/

namespace Sys2Proof.Machine

/-- The meaning of an accepted command in an instance (30_encoding.md R49). -/
def execWith (p : Params) (i : Instr) (s : State) : Host.Outcome State Fault Refusal :=
  match i with
  | .widenFp16 anchor count => execWidenFp16With p anchor count s
  | .widenBf16 anchor count => execWidenBf16With p anchor count s
  | .mulFp16 anchor count => execMulFp16With p anchor count s
  | .selAnchor anchor count => execSelAnchorWith p anchor count s
  | .alignFp16 anchor count => execAlignFp16With p anchor count s
  | .alignE4M3 anchor count => execAlignE4M3With p anchor count s
  | .reduce anchor count => execReduceWith p anchor count s
  | .requantBf16 anchor count => execRequantBf16With p anchor count s
  | .mac anchor count => execMacWith p anchor count s

/-- One clock cycle of an instance. -/
def stepWith (p : Params) (s : State) : Host.Outcome State Fault Refusal := cycleOf p (execWith p) s

end Sys2Proof.Machine
end

