-- ==== Sys2Proof/Machine/Respond.lean ====
section
/-! DEFINITION. The whole block as one pure function of a transaction's inputs (00_scope.md R4, 10_state.md R28), written
straight from the tables of 30_encoding.md R49 and 60_exceptions.md R115 on the fields of the command word: the function
that the machine is held against, for any instance. The machine itself does not call it, the requester does
(Machine/Requester.lean). -/

namespace Sys2Proof.Machine

/-- Whether the operation numbered `op` uses `COUNT` (30_encoding.md R48, R51). -/
def opUsesCount (op : Nat) : Bool := op == 3 || op == 6 || op == 8

/-- The first failing check of 60_exceptions.md R115 in an instance, if any. -/
def commandCause (p : Params) (w : CmdWord) : Option CommandError :=
  if 9 ≤ (opField w).toNat then some .reservedOpcode
  else if rsv0Field w ≠ 0 ∨ rsv1Field w ≠ 0 then some .reservedBits
  else if opUsesCount (opField w).toNat ∧ p.nmax < (countField w).toNat then some .countOutOfRange
  else none

/-- The result of the operation numbered `op` (30_encoding.md R49), 0 for a reserved number. -/
def resultOf (p : Params) (op : Nat) (anchor : Anchor) (count : Count) (o : Operands) : RespData :=
  match op with
  | 0 => data16 (widenFp16 p.canonNanFp16Mant o.c8)
  | 1 => data16 (widenBf16 p.canonNanBf16Mant o.c8)
  | 2 => data16 (mulFp16 o.a o.b)
  | 3 => data8 (selectAnchor (lanesUsed o.va count) o.c8)
  | 4 => alignFp16 o.a anchor
  | 5 => alignE4M3 o.c8 anchor
  | 6 => reduceTerms (lanesUsed o.vi count) o.s32
  | 7 => data16 (requantBf16 o.s32 anchor)
  | 8 => data16 (macBf16 (lanesUsed o.va count) (lanesUsed o.vb count) o.c8)
  | _ => 0

/-- An instance's response to a command word with its operands (10_state.md R28). -/
def respondWith (p : Params) (w : CmdWord) (o : Operands) : Response :=
  match commandCause p w with
  | some e => errorResponse e
  | none => okResponse (resultOf p (opField w).toNat (anchorField w) (countField w) o)

/-- The response of the machine's instance. -/
def respond (w : CmdWord) (o : Operands) : Response := respondWith Config.block w o

end Sys2Proof.Machine
end

