-- ==== Sys2Proof/Machine/Requester.lean ====
section
/-! DEFINITION. The requester's side: requests, runs of the block over a list of input cycles and what is accepted and
presented in them, the MAC built from separate transactions (46_mac_composite.md R113) and the pseudo-operation
`MAC.E4M3` (30_encoding.md R55). The requester's storage is not state of the block (30_encoding.md R54). -/

namespace Sys2Proof.Machine

/-- What a requester offers: a command word and its operands, sampled together (10_state.md R20, R26). -/
structure Request where
  /-- `CMD`. -/
  cmd : CmdWord
  /-- The operand buses. -/
  operands : Operands
deriving DecidableEq, Repr

/-- The response to a request (10_state.md R28). -/
def Request.response (q : Request) : Response := respond q.cmd q.operands

/-- The input pins that offer a request. -/
def Request.inputs (q : Request) : Inputs := ⟨true, true, q.cmd, q.operands⟩

/-- The request that is accepted in this cycle, if one is (10_state.md R26). -/
def State.acceptedNow (s : State) : List Request :=
  match s.sampled with
  | some w => [⟨w, s.inputs.operands⟩]
  | none => []

/-- The block run over the inputs of some cycles, one step each. -/
def runCycles : List Inputs → State → Host.Outcome State Fault Refusal
  | [], s => .next s
  | i :: rest, s =>
    match step (s.drive i) with
    | .next t => runCycles rest t
    | .fault f => .fault f
    | .refused r => .refused r

/-- The requests accepted in a run, in order. -/
def acceptedIn : List Inputs → State → List Request
  | [], _ => []
  | i :: rest, s =>
    (s.drive i).acceptedNow ++
      match step (s.drive i) with
      | .next t => acceptedIn rest t
      | .fault _ => []
      | .refused _ => []

/-- The responses presented in a run, in order, one for each cycle with `resp_valid = 1`. -/
def deliveredIn : List Inputs → State → List Response
  | [], _ => []
  | i :: rest, s =>
    (s.drive i).presented.toList ++
      match step (s.drive i) with
      | .next t => deliveredIn rest t
      | .fault _ => []
      | .refused _ => []

/-- The fp16 or bf16 result in `R[15:0]` (30_encoding.md R49). -/
def Response.half (r : Response) : BitVec 16 := r.data.setWidth 16

/-- The anchor in `R[7:0]` (30_encoding.md R49). -/
def Response.anchor (r : Response) : Anchor := r.data.setWidth 8

/-- A request for `MUL.FP16 a, b`. -/
def mulRequest (a b : Fp16) : Request := ⟨encode (.mulFp16 0 0), { Operands.zero with a := a, b := b }⟩

/-- A request for `SEL.ANCHOR count, [products], c8`. -/
def selRequest (products : List Fp16) (c8 : E4M3) : Request :=
  ⟨encode (.selAnchor 0 (BitVec.ofNat 6 products.length)), { Operands.zero with va := lanesOfList products, c8 := c8 }⟩

/-- A request for `ALIGN.FP16 a, anchor`. -/
def alignFp16Request (a : Fp16) (anchor : Anchor) : Request :=
  ⟨encode (.alignFp16 anchor 0), { Operands.zero with a := a }⟩

/-- A request for `ALIGN.E4M3 c8, anchor`. -/
def alignE4M3Request (c8 : E4M3) (anchor : Anchor) : Request :=
  ⟨encode (.alignE4M3 anchor 0), { Operands.zero with c8 := c8 }⟩

/-- A request for `REDUCE count, [terms], s32`. -/
def reduceRequest (terms : List Fxp) (s32 : Fxp) : Request :=
  ⟨encode (.reduce 0 (BitVec.ofNat 6 terms.length)), { Operands.zero with vi := lanesOfList terms, s32 := s32 }⟩

/-- A request for `REQUANT.BF16 s32, anchor`. -/
def requantRequest (s32 : Fxp) (anchor : Anchor) : Request :=
  ⟨encode (.requantBf16 anchor 0), { Operands.zero with s32 := s32 }⟩

/-- A request for `MAC count, [va], [vb], c8`. -/
def macRequest (va vb : List Fp16) (c8 : E4M3) : Request :=
  ⟨encode (.mac 0 (BitVec.ofNat 6 va.length)),
    { Operands.zero with va := lanesOfList va, vb := lanesOfList vb, c8 := c8 }⟩

/-- The final response of the sequence `MUL.FP16` (N times), `SEL.ANCHOR`, `ALIGN.FP16` (N times), `ALIGN.E4M3`, `REDUCE`,
`REQUANT.BF16`, each transaction given the values of the responses before it (46_mac_composite.md R113 part 4). -/
def macBySequence (va vb : List Fp16) (c8 : E4M3) : Response :=
  let products := List.zipWith (fun a b => (mulRequest a b).response.half) va vb
  let anchor := (selRequest products c8).response.anchor
  let terms := products.map fun p => (alignFp16Request p anchor).response.data
  let addend := (alignE4M3Request c8 anchor).response.data
  let sum := (reduceRequest terms addend).response.data
  (requantRequest sum anchor).response

/-- A request for `WIDEN.FP16 c8`. -/
def widenFp16Request (x : E4M3) : Request := ⟨encode (.widenFp16 0 0), { Operands.zero with c8 := x }⟩

/-- The first part of the expansion of `MAC.E4M3`: every multiplicand is widened (30_encoding.md R55). -/
def macE4M3Widenings (ea eb : List E4M3) : List Request := (ea ++ eb).map widenFp16Request

/-- The second part: one `MAC` of the widened multiplicands (30_encoding.md R55). -/
def macE4M3Request (ea eb : List E4M3) (c8 : E4M3) : Request :=
  let widened := (macE4M3Widenings ea eb).map fun q => q.response.half
  macRequest (widened.take ea.length) (widened.drop ea.length) c8

end Sys2Proof.Machine
end

