-- ==== Sys2Proof/WellFormed.lean ====
section
/-! DEFINITION. Which commands are well formed: those of 30_encoding.md R48 whose `COUNT` is in range where it is used.
The widths of the fields stand in the types. -/

namespace Sys2Proof

/-- Whether an operation uses `COUNT` (30_encoding.md R48, R51). -/
def Instr.usesCount : Instr → Bool
  | .selAnchor _ _ => true
  | .reduce _ _ => true
  | .mac _ _ => true
  | .widenFp16 _ _ => false
  | .widenBf16 _ _ => false
  | .mulFp16 _ _ => false
  | .alignFp16 _ _ => false
  | .alignE4M3 _ _ => false
  | .requantBf16 _ _ => false

/-- A command is well formed for an instance if the `COUNT` it uses is at most its `NMAX` (30_encoding.md R48). One that
is not is answered with cause 3 (60_exceptions.md R115); it still decodes. -/
def Instr.wellFormedFor (p : Params) (i : Instr) : Bool :=
  !i.usesCount || decide (i.count.toNat ≤ p.nmax)

/-- A command is well formed for the machine's instance. -/
def Instr.wellFormed (i : Instr) : Bool := i.wellFormedFor Config.block

end Sys2Proof
end

