-- ==== Sys2Proof/Safety.lean ====
section
/-! DEFINITION. The terms in which claims about the block are stated: the invariant, what "the same operation on the same
operands" means, and rounding to nearest even as a property of a result. -/

namespace Sys2Proof.Machine

/-- A response as 10_state.md R28 and 60_exceptions.md R116 describe it: without an error the cause is 0, with one the
cause is not 0 and the data is. -/
def Response.wf (r : Response) : Bool :=
  if r.err then decide (r.cause ≠ 0 ∧ r.data = 0) else decide (r.cause = 0)

/-- The invariant: the FIFO never holds more than its depth, the block is ready only while there is room in it
(10_state.md R27), and every response in flight has one of the two forms of 10_state.md R28. -/
def State.Inv (s : State) : Prop :=
  s.fifo.length ≤ Config.fifoDepth ∧
    (s.ready = true → s.fifo.length < Config.fifoDepth) ∧
    ∀ e ∈ s.fifo, e.response.wf = true

/-- Two settings of the operand buses agree on the operands that the operation reads (30_encoding.md R51). -/
def AgreeOnRead (i : Instr) (o p : Operands) : Prop :=
  match i with
  | .widenFp16 _ _ => o.c8 = p.c8
  | .widenBf16 _ _ => o.c8 = p.c8
  | .mulFp16 _ _ => o.a = p.a ∧ o.b = p.b
  | .selAnchor _ n => (∀ k : Nat, k < n.toNat → o.va[k]? = p.va[k]?) ∧ o.c8 = p.c8
  | .alignFp16 _ _ => o.a = p.a
  | .alignE4M3 _ _ => o.c8 = p.c8
  | .reduce _ n => (∀ k : Nat, k < n.toNat → o.vi[k]? = p.vi[k]?) ∧ o.s32 = p.s32
  | .requantBf16 _ _ => o.s32 = p.s32
  | .mac _ n => (∀ k : Nat, k < n.toNat → o.va[k]? = p.va[k]? ∧ o.vb[k]? = p.vb[k]?) ∧ o.c8 = p.c8

/-- Whether an operation uses `ANCHOR` (30_encoding.md R47, R51). -/
def usesAnchor : Instr → Bool
  | .alignFp16 _ _ => true
  | .alignE4M3 _ _ => true
  | .requantBf16 _ _ => true
  | .widenFp16 _ _ => false
  | .widenBf16 _ _ => false
  | .mulFp16 _ _ => false
  | .selAnchor _ _ => false
  | .reduce _ _ => false
  | .mac _ _ => false

/-- The same state with other values on the operand buses. -/
def State.withOperands (s : State) (o : Operands) : State := s.drive { s.inputs with operands := o }

/-- In an instance, one command in one state and another in another state are both answered, with different responses. -/
def AnswersDiffer (p : Params) (i : Instr) (s : State) (j : Instr) (t : State) : Prop :=
  ∃ r q : Response, execWith p i s = .next (s.acceptWith p r) ∧ execWith p j t = .next (t.acceptWith p q) ∧ r ≠ q

/-- Two commands of the same operation that agree on the fields it uses (30_encoding.md R48). -/
def SameUsedFields (i j : Instr) : Prop :=
  opcode i = opcode j ∧ (usesAnchor i = true → i.anchor = j.anchor) ∧ (i.usesCount = true → i.count = j.count)

/-- `r` is a finite fp16 pattern nearest to `x`, with an even mantissa field where another one is as near: round to
nearest, ties to even. -/
def IsNearestEvenFp16 (r : Fp16) (x : ℚ) : Prop :=
  (classFp16 r).isFinite = true ∧
    ∀ z : Fp16, (classFp16 z).isFinite = true →
      |literalFp16 r - x| ≤ |literalFp16 z - x| ∧
        (literalFp16 z ≠ literalFp16 r → |literalFp16 r - x| = |literalFp16 z - x| → (decFp16 r).mf % 2 = 0)

/-- The same for bf16. -/
def IsNearestEvenBf16 (r : Bf16) (x : ℚ) : Prop :=
  (classBf16 r).isFinite = true ∧
    ∀ z : Bf16, (classBf16 z).isFinite = true →
      |literalBf16 r - x| ≤ |literalBf16 z - x| ∧
        (literalBf16 z ≠ literalBf16 r → |literalBf16 r - x| = |literalBf16 z - x| → (decBf16 r).mf % 2 = 0)

/-- The real number that a sum denotes in the frame of an anchor (43_fxp_aligner_pipeline.md R87). -/
def frameValue (t : Fxp) (anchor : Anchor) : ℚ := (t.toInt : ℚ) * (2 : ℚ) ^ ((anchor.toNat : Int) - 31)

/-- A magnitude in units of the frame of an anchor (43_fxp_aligner_pipeline.md R87). -/
def frameUnits (x : ℚ) (anchor : Anchor) : ℚ := |x| * (2 : ℚ) ^ (31 - (anchor.toNat : Int))

/-- The in-flight entries that are left after a cycle, each with a cycle less to wait: all but the oldest if that one was
presented in the cycle (10_state.md R27). -/
def survivors (fifo : List InFlight) : List InFlight :=
  (if fifo.head?.map InFlight.wait = some 0 then fifo.tail else fifo).map fun e => ⟨e.response, e.wait - 1⟩

/-- A magnitude with a sign bit applied. -/
def withSign (sign : Bool) (mag : Int) : Int := if sign then -mag else mag

end Sys2Proof.Machine
end

