-- ==== Sys2Proof/Certificates/Slice0/Obligations.lean ====
section
/-! DEFINITION. The statements about the block, for the provers. Each docstring names the rule of spec/ that it formalises;
"log <n>" is notes/assumptions/<n>.md. A next state is written `s.accept r`: what that is in full (the pins kept, the FIFO's
survivors, the response `r` appended) is `AcceptedCommandAppendsOneResponse`. -/

open Sys2Proof Sys2Proof.Machine

/-! ### The command word -/

/-- 30_encoding.md R47, R49: decoding the word of a command gives that command, with each field at each value. -/
def Obligations.DecodeOfEncodeIsTheCommand : Prop :=
  ∀ i : Instr, decode (encode i) = .ok i

/-- A word that decodes is the word of the command it decodes to, so no two words share a command. That is the model's
choice: every command holds `ANCHOR` and `COUNT`, also where the operation ignores them (log 14). 30_encoding.md R50 says
only that each word is one legal operation or illegal. -/
def Obligations.DecodedWordIsTheEncodingOfItsCommand : Prop :=
  ∀ (w : CmdWord) (i : Instr), decode w = .ok i → encode i = w

/-- The decoder rejects exactly the reserved opcodes and the reserved bits, the opcode first. That it rejects nothing
else is the model's choice (log 13): of the illegal commands of 30_encoding.md R50, the one with `COUNT` above `NMAX`
decodes too, and its operation answers it with cause 3. -/
def Obligations.DecoderRejectsExactlyReservedForms : Prop :=
  ∀ w : CmdWord,
    (decode w = .error .reservedOpcode ↔ 9 ≤ (w.extractLsb' 0 4).toNat) ∧
    (decode w = .error .reservedBits ↔
      (w.extractLsb' 0 4).toNat < 9 ∧ (w.extractLsb' 4 4 ≠ 0 ∨ w.extractLsb' 22 10 ≠ 0)) ∧
    decode w ≠ .error .countOutOfRange

/-- 30_encoding.md R47, R49 on words that 95_test_vectors.md writes out: the decoder reads their operations and fields. -/
def Obligations.DecoderReadsWordsOfTheTestVectors : Prop :=
  decode 0x00000000 = .ok (.widenFp16 0 0) ∧
  decode 0x003FFF02 = .ok (.mulFp16 0xFF 63) ∧
  decode 0x00030003 = .ok (.selAnchor 0 3) ∧
  decode 0x00000304 = .ok (.alignFp16 3 0) ∧
  decode 0x00000305 = .ok (.alignE4M3 3 0) ∧
  decode 0x00030006 = .ok (.reduce 0 3) ∧
  decode 0x00000507 = .ok (.requantBf16 5 0) ∧
  decode 0x00020008 = .ok (.mac 0 2)

/-! ### A step of the block -/

/-- 10_state.md R26: where a request is accepted and its word decodes to a command, the step is `exec` of that command. -/
def Obligations.StepRunsTheDecodedCommand : Prop :=
  ∀ (s : State) (i : Instr), s.inputs.rstN = true → s.inputs.reqValid = true → s.ready = true →
    decode s.inputs.cmd = .ok i → step s = exec i s

/-- 10_state.md R28: a step that accepts a request appends the response of the block's one pure function of the sampled
command word and operands, written from the opcode map and the table of causes. -/
def Obligations.AcceptingStepAppendsTheBlockResponse : Prop :=
  ∀ s : State, s.handshake = true → step s = .next (s.accept (respond s.inputs.cmd s.inputs.operands))

/-- 20_memory.md R36: the same command with the same operands gets the same response in any two states. -/
def Obligations.SameRequestGetsTheSameResponse : Prop :=
  ∀ s t : State, s.handshake = true → t.handshake = true → s.inputs.cmd = t.inputs.cmd →
    s.inputs.operands = t.inputs.operands →
    ∃ r : Response, step s = .next (s.accept r) ∧ step t = .next (t.accept r)

/-- 60_exceptions.md R115: a command is checked in the order opcode, reserved bits, count, and the first failing check
gives the cause; no operand value makes a command illegal. -/
def Obligations.IllegalCommandGetsItsFirstFailingCause : Prop :=
  ∀ s : State, s.handshake = true →
    let w := s.inputs.cmd
    let op := (w.extractLsb' 0 4).toNat
    let reserved := w.extractLsb' 4 4 ≠ 0 ∨ w.extractLsb' 22 10 ≠ 0
    let badCount := (op = 3 ∨ op = 6 ∨ op = 8) ∧ Config.nmax < (w.extractLsb' 16 6).toNat
    (9 ≤ op → step s = .next (s.accept ⟨true, 1, 0⟩)) ∧
    (op < 9 → reserved → step s = .next (s.accept ⟨true, 2, 0⟩)) ∧
    (op < 9 → ¬ reserved → badCount → step s = .next (s.accept ⟨true, 3, 0⟩)) ∧
    (op < 9 → ¬ reserved → ¬ badCount → ∃ data : RespData, step s = .next (s.accept ⟨false, 0, data⟩))

/-- 60_exceptions.md R114, R118: nothing stops the block, whatever the pins carry. -/
def Obligations.EveryStepAnswersANextState : Prop :=
  ∀ s : State, ∃ t : State, step s = .next t

/-- 30_encoding.md R48: every command whose used `COUNT` is in range completes, without an error. -/
def Obligations.EveryWellFormedCommandCompletes : Prop :=
  ∀ (i : Instr) (s : State), i.wellFormed = true →
    ∃ data : RespData, exec i s = .next (s.accept ⟨false, 0, data⟩)

/-- 60_exceptions.md R115, R116: a used `COUNT` above `NMAX` (32, the spec's default: log 2) is answered with cause 3 and
data 0. -/
def Obligations.CountOutOfRangeIsAnsweredWithCauseThree : Prop :=
  ∀ (a : Anchor) (n : Count) (s : State), Config.nmax < n.toNat →
    exec (.selAnchor a n) s = .next (s.accept ⟨true, 3, 0⟩) ∧
    exec (.reduce a n) s = .next (s.accept ⟨true, 3, 0⟩) ∧
    exec (.mac a n) s = .next (s.accept ⟨true, 3, 0⟩)

/-- The frame of all nine operations (10_state.md R19, R27; 20_memory.md R36): an accepted command leaves the pins as they
are and changes nothing but the FIFO and the timing; the FIFO keeps every entry but a presented one and gains one response
at its end. That the new entry waits `Config.latency` and that a presented response leaves after one cycle is the model's
reading of R27 (logs 4 and 10). -/
def Obligations.AcceptedCommandAppendsOneResponse : Prop :=
  ∀ (i : Instr) (s t : State), exec i s = .next t →
    t.inputs = s.inputs ∧ t.cycle = s.cycle + 1 ∧
    ∃ r : Response, t = s.accept r ∧ t.fifo = survivors s.fifo ++ [⟨r, Config.latency⟩]

/-- 10_state.md R26: without an accepted request nothing joins the FIFO. That a presented response leaves after one cycle
(log 10) and that the others then have a cycle less to wait (log 4) is the model's reading of R27. -/
def Obligations.CycleWithoutAcceptanceAppendsNothing : Prop :=
  ∀ s : State, s.inputs.rstN = true → s.handshake = false →
    ∃ t : State, step s = .next t ∧ t.inputs = s.inputs ∧ t.fifo = survivors s.fifo

/-- The half of 30_encoding.md R51 that says "and no others": two settings of the buses that agree on the operands
listed for an operation, and on the lanes below `COUNT`, get the same response. -/
def Obligations.UnreadOperandsDoNotChangeTheResponse : Prop :=
  ∀ (i : Instr) (s t : State), AgreeOnRead i s.inputs.operands t.inputs.operands →
    ∃ r : Response, exec i s = .next (s.accept r) ∧ exec i t = .next (t.accept r)

/-- The half of 30_encoding.md R51 that says what is read, for the scalar operands and the fields of the command: in every
legal instance, each one listed for an operation changes the response in some setting that is otherwise the same. -/
def Obligations.ListedScalarsAndFieldsAreRead : Prop :=
  ∀ (p : Params) (s : State) (a : Anchor) (n : Count), p.legal = true →
    let on := s.withOperands
    let z := Operands.zero
    (∃ x y : E4M3, AnswersDiffer p (.widenFp16 a n) (on { z with c8 := x }) (.widenFp16 a n) (on { z with c8 := y })) ∧
    (∃ x y : E4M3, AnswersDiffer p (.widenBf16 a n) (on { z with c8 := x }) (.widenBf16 a n) (on { z with c8 := y })) ∧
    (∃ x y : Fp16, AnswersDiffer p (.mulFp16 a n) (on { z with a := x }) (.mulFp16 a n) (on { z with a := y })) ∧
    (∃ x y : Fp16, AnswersDiffer p (.mulFp16 a n) (on { z with b := x }) (.mulFp16 a n) (on { z with b := y })) ∧
    (n.toNat ≤ p.nmax → ∃ x y : E4M3,
      AnswersDiffer p (.selAnchor a n) (on { z with c8 := x }) (.selAnchor a n) (on { z with c8 := y })) ∧
    (∃ (o : Operands) (m k : Count), m.toNat ≤ p.nmax ∧ k.toNat ≤ p.nmax ∧
      AnswersDiffer p (.selAnchor a m) (on o) (.selAnchor a k) (on o)) ∧
    (∃ (b : Anchor) (x y : Fp16),
      AnswersDiffer p (.alignFp16 b n) (on { z with a := x }) (.alignFp16 b n) (on { z with a := y })) ∧
    (∃ (o : Operands) (b c : Anchor), AnswersDiffer p (.alignFp16 b n) (on o) (.alignFp16 c n) (on o)) ∧
    (∃ (b : Anchor) (x y : E4M3),
      AnswersDiffer p (.alignE4M3 b n) (on { z with c8 := x }) (.alignE4M3 b n) (on { z with c8 := y })) ∧
    (∃ (o : Operands) (b c : Anchor), AnswersDiffer p (.alignE4M3 b n) (on o) (.alignE4M3 c n) (on o)) ∧
    (n.toNat ≤ p.nmax → ∃ x y : Fxp,
      AnswersDiffer p (.reduce a n) (on { z with s32 := x }) (.reduce a n) (on { z with s32 := y })) ∧
    (∃ (o : Operands) (m k : Count), m.toNat ≤ p.nmax ∧ k.toNat ≤ p.nmax ∧
      AnswersDiffer p (.reduce a m) (on o) (.reduce a k) (on o)) ∧
    (∃ x y : Fxp, AnswersDiffer p (.requantBf16 a n) (on { z with s32 := x }) (.requantBf16 a n) (on { z with s32 := y })) ∧
    (∃ (o : Operands) (b c : Anchor), AnswersDiffer p (.requantBf16 b n) (on o) (.requantBf16 c n) (on o)) ∧
    (n.toNat ≤ p.nmax → ∃ x y : E4M3,
      AnswersDiffer p (.mac a n) (on { z with c8 := x }) (.mac a n) (on { z with c8 := y })) ∧
    (∃ (o : Operands) (m k : Count), m.toNat ≤ p.nmax ∧ k.toNat ≤ p.nmax ∧
      AnswersDiffer p (.mac a m) (on o) (.mac a k) (on o))

/-- The half of 30_encoding.md R51 that says what is read, for the vector operands: in every instance, each lane below a
`COUNT` in range changes the response in some setting that is otherwise the same. -/
def Obligations.EveryLaneBelowCountIsRead : Prop :=
  ∀ (p : Params) (s : State) (a : Anchor) (n : Count) (k : Nat), n.toNat ≤ p.nmax → k < n.toNat →
    let on := s.withOperands
    (∃ (o : Operands) (x y : Fp16), AnswersDiffer p
      (.selAnchor a n) (on { o with va := o.va.setIfInBounds k x })
      (.selAnchor a n) (on { o with va := o.va.setIfInBounds k y })) ∧
    (∃ (o : Operands) (x y : Fxp), AnswersDiffer p
      (.reduce a n) (on { o with vi := o.vi.setIfInBounds k x })
      (.reduce a n) (on { o with vi := o.vi.setIfInBounds k y })) ∧
    (∃ (o : Operands) (x y : Fp16), AnswersDiffer p
      (.mac a n) (on { o with va := o.va.setIfInBounds k x })
      (.mac a n) (on { o with va := o.va.setIfInBounds k y })) ∧
    (∃ (o : Operands) (x y : Fp16), AnswersDiffer p
      (.mac a n) (on { o with vb := o.vb.setIfInBounds k x })
      (.mac a n) (on { o with vb := o.vb.setIfInBounds k y }))

/-- 30_encoding.md R48: a field that an operation does not use may hold any value without changing the response. -/
def Obligations.UnusedFieldsDoNotChangeTheResponse : Prop :=
  ∀ (i j : Instr) (s : State), SameUsedFields i j → exec i s = exec j s

/-! ### Every instance of the block (10_state.md R29) -/

/-- The machine is the instance `Config.block` of the model, which takes the parameters as arguments (10_state.md R29);
that this instance has the spec's defaults is the model's choice (logs 2, 3 and 4). -/
def Obligations.MachineIsTheInstanceOfTheDefaults : Prop :=
  Config.block.nmax = 32 ∧ Config.block.canonNanFp16Mant = 0x200 ∧ Config.block.canonNanBf16Mant = 0x40 ∧
    Config.block.legal = true ∧
    ∀ s : State, step s = stepWith Config.block s ∧ ∀ i : Instr, exec i s = execWith Config.block i s

/-- 10_state.md R28 for every instance: a step that accepts a request appends the response of the instance's one pure
function of the sampled command word and operands. -/
def Obligations.EveryInstanceAppendsItsResponse : Prop :=
  ∀ (p : Params) (s : State), s.handshake = true →
    stepWith p s = .next (s.acceptWith p (respondWith p s.inputs.cmd s.inputs.operands))

/-- 30_encoding.md R48 for every instance: a command completes without an error if the `COUNT` it uses is at most the
instance's `NMAX`, and is otherwise answered with cause 3 and data 0 (60_exceptions.md R115, R116). -/
def Obligations.EveryInstanceBoundsCountByItsNmax : Prop :=
  ∀ (p : Params) (i : Instr) (s : State),
    ((i.usesCount = true → i.count.toNat ≤ p.nmax) →
      ∃ data : RespData, execWith p i s = .next (s.acceptWith p ⟨false, 0, data⟩)) ∧
    (i.usesCount = true → p.nmax < i.count.toNat → execWith p i s = .next (s.acceptWith p ⟨true, 3, 0⟩))

/-- 10_state.md R20: an instance has the lanes `0..NMAX-1`. That the model's buses have more is the model's choice (log
19), and no instance's response depends on one of those. -/
def Obligations.LanesFromNmaxOnDoNotChangeTheResponse : Prop :=
  ∀ (p : Params) (s t : State), s.handshake = true → t.handshake = true → s.inputs.cmd = t.inputs.cmd →
    let o := s.inputs.operands
    let q := t.inputs.operands
    o.a = q.a → o.b = q.b → o.c8 = q.c8 → o.s32 = q.s32 →
    (∀ k : Nat, k < p.nmax → o.va[k]? = q.va[k]? ∧ o.vb[k]? = q.vb[k]? ∧ o.vi[k]? = q.vi[k]?) →
    ∃ r : Response, stepWith p s = .next (s.acceptWith p r) ∧ stepWith p t = .next (t.acceptWith p r)

/-- 70_reset_and_hazards.md R128: no value depends on time. Instances that differ in `LATENCY` alone give the same
response. -/
def Obligations.LatencyDoesNotChangeTheResponse : Prop :=
  ∀ (p : Params) (l : Nat) (s : State), s.handshake = true →
    ∃ r : Response, stepWith p s = .next (s.acceptWith p r) ∧
      stepWith { p with latency := l } s = .next (s.acceptWith { p with latency := l } r)

/-! ### The in-flight FIFO, the handshake and reset -/

/-- Every step keeps the invariant: the FIFO within its depth, readiness only with room in it, and every response in
flight of one of the two forms of 10_state.md R28. That the FIFO is bounded by a free depth is the model's reading of
R27 (log 5). -/
def Obligations.EveryStepKeepsTheInvariant : Prop :=
  ∀ s t : State, s.Inv → step s = .next t → t.Inv

/-- The invariant holds after reset, with the pins driven in any way. -/
def Obligations.ResetStateHasTheInvariant : Prop :=
  ∀ inputs : Inputs, (State.reset.drive inputs).Inv

/-- 10_state.md R27, R28: over any cycles without reset, the responses presented and those still in flight are, in order
and each once, those in flight at the start and then those of the accepted requests. -/
def Obligations.ResponsesLeaveInAcceptanceOrderExactlyOnce : Prop :=
  ∀ (cycles : List Inputs) (s t : State), (∀ i ∈ cycles, i.rstN = true) → runCycles cycles s = .next t →
    deliveredIn cycles s ++ t.fifo.map InFlight.response =
      s.fifo.map InFlight.response ++ (acceptedIn cycles s).map Request.response

/-- 10_state.md R26, 70_reset_and_hazards.md R128 (weak fairness): from every state, a request held valid is accepted
after finitely many cycles, unless reset intervenes. It rests on the model's finite free gaps (log 6). -/
def Obligations.HeldRequestIsEventuallyAccepted : Prop :=
  ∀ (input : Nat → Inputs) (s : State), (∀ k, (input k).rstN = true ∧ (input k).reqValid = true) →
    ∃ (n : Nat) (t : State), runCycles ((List.range n).map input) s = .next t ∧ (t.drive (input n)).handshake = true

/-- 70_reset_and_hazards.md R128 (weak fairness): from every state, each in-flight transaction is answered after finitely
many cycles, right after those accepted before it, unless reset intervenes. It rests on the model's finite free
`LATENCY` (log 4). -/
def Obligations.InFlightTransactionIsEventuallyAnswered : Prop :=
  ∀ (input : Nat → Inputs) (s : State) (older newer : List InFlight) (e : InFlight),
    (∀ k, (input k).rstN = true) → s.fifo = older ++ e :: newer →
    ∃ (n : Nat) (t : State), runCycles ((List.range n).map input) s = .next t ∧
      deliveredIn ((List.range n).map input) s = older.map InFlight.response ∧
      (t.drive (input n)).presented = some e.response

/-- 10_state.md R20, R28: while the oldest response is presented, the output pins carry it. -/
def Obligations.OutputPinsCarryTheOldestResponse : Prop :=
  ∀ (s : State) (e : InFlight) (rest : List InFlight), s.inputs.rstN = true → s.fifo = e :: rest → e.wait = 0 →
    s.respValid = true ∧ s.respErr = e.response.err ∧ s.respCause = e.response.cause ∧ s.respData = e.response.data

/-- 70_reset_and_hazards.md R121, 10_state.md R30: while `rst_n = 0`, `resp_valid` and `req_ready` are 0, and the step
discards every in-flight transaction: however the pins are driven then, no response is presented. -/
def Obligations.ResetDiscardsEveryInFlightTransaction : Prop :=
  ∀ s : State, s.inputs.rstN = false →
    s.respValid = false ∧ s.reqReady = false ∧
    ∃ t : State, step s = .next t ∧ t.fifo = [] ∧ t.inputs = s.inputs ∧
      ∀ inputs : Inputs, (t.drive inputs).respValid = false

/-- 10_state.md R30: after reset the FIFO is empty and `resp_valid` is 0 however the pins are driven, and `req_ready` is 0
while `rst_n = 0`. -/
def Obligations.ResetStateHasNothingInFlight : Prop :=
  State.reset.fifo = [] ∧
  ∀ inputs : Inputs, (State.reset.drive inputs).respValid = false ∧
    (inputs.rstN = false → (State.reset.drive inputs).reqReady = false)

/-! ### Number formats -/

/-- 40_format_decoder.md R61: for every pattern of the three formats, `enc_f(dec_f(x)) = x`. -/
def Obligations.EncodingUndoesDecodingOfFormats : Prop :=
  (∀ x : E4M3, encE4M3 (decE4M3 x).sign (decE4M3 x).ef (decE4M3 x).mf = x) ∧
  (∀ x : Fp16, encFp16 (decFp16 x).sign (decFp16 x).ef (decFp16 x).mf = x) ∧
  (∀ x : Bf16, encBf16 (decBf16 x).sign (decBf16 x).ef (decBf16 x).mf = x)

/-- 40_format_decoder.md R59: the real value of every zero, subnormal and normal pattern, the infinities with their
signs, and no number for a NaN; with the rule's examples. -/
def Obligations.PatternsDenoteTheirValues : Prop :=
  (∀ x : E4M3,
    let u := decE4M3 x
    let sign : ℚ := if u.sign then -1 else 1
    (classE4M3 x = .zero → valueE4M3 x = .real 0) ∧
    (classE4M3 x = .subnormal → valueE4M3 x = .real (sign * u.mf * (2 : ℚ) ^ (1 - 7 - 3 : Int))) ∧
    (classE4M3 x = .normal → valueE4M3 x = .real (sign * (2 ^ 3 + u.mf) * (2 : ℚ) ^ ((u.ef : Int) - 7 - 3))) ∧
    (classE4M3 x = .nan → valueE4M3 x = .notANumber) ∧ classE4M3 x ≠ .inf) ∧
  (∀ x : Fp16,
    let u := decFp16 x
    let sign : ℚ := if u.sign then -1 else 1
    (classFp16 x = .zero → valueFp16 x = .real 0) ∧
    (classFp16 x = .subnormal → valueFp16 x = .real (sign * u.mf * (2 : ℚ) ^ (1 - 15 - 10 : Int))) ∧
    (classFp16 x = .normal → valueFp16 x = .real (sign * (2 ^ 10 + u.mf) * (2 : ℚ) ^ ((u.ef : Int) - 15 - 10))) ∧
    (classFp16 x = .inf → valueFp16 x = .infinity u.sign) ∧ (classFp16 x = .nan → valueFp16 x = .notANumber)) ∧
  (∀ x : Bf16,
    let u := decBf16 x
    let sign : ℚ := if u.sign then -1 else 1
    (classBf16 x = .zero → valueBf16 x = .real 0) ∧
    (classBf16 x = .subnormal → valueBf16 x = .real (sign * u.mf * (2 : ℚ) ^ (1 - 127 - 7 : Int))) ∧
    (classBf16 x = .normal → valueBf16 x = .real (sign * (2 ^ 7 + u.mf) * (2 : ℚ) ^ ((u.ef : Int) - 127 - 7))) ∧
    (classBf16 x = .inf → valueBf16 x = .infinity u.sign) ∧ (classBf16 x = .nan → valueBf16 x = .notANumber)) ∧
  valueE4M3 0x01 = .real ((2 : ℚ) ^ (-9 : Int)) ∧ valueE4M3 0x07 = .real (7 * (2 : ℚ) ^ (-9 : Int)) ∧
  valueE4M3 0x08 = .real ((2 : ℚ) ^ (-6 : Int)) ∧ valueE4M3 0x38 = .real 1 ∧ valueE4M3 0x40 = .real 2 ∧
  valueE4M3 0x7F = .real 480 ∧ valueE4M3 0xFE = .real (-448)

/-- 20_memory.md R32: lane `i` of a packed bus of any instance's number of lanes is at bits `[16i+15 : 16i]` (`VA`,
`VB`) or `[32i+31 : 32i]` (`VI`). -/
def Obligations.PackedBusLanesAreConsecutiveBits : Prop :=
  (∀ (n : Nat) (flat : BitVec (16 * n)) (i j : Nat), n ≤ Config.laneBound → i < n → j < 16 →
    ((lanesOfFlat 16 flat)[i]?.map fun lane => lane.getLsbD j) = some (flat.getLsbD (16 * i + j))) ∧
  (∀ (n : Nat) (flat : BitVec (32 * n)) (i j : Nat), n ≤ Config.laneBound → i < n → j < 32 →
    ((lanesOfFlat 32 flat)[i]?.map fun lane => lane.getLsbD j) = some (flat.getLsbD (32 * i + j)))

/-! ### `WIDEN.FP16`, `WIDEN.BF16` -/

/-- 40_format_decoder.md R62: for every e4m3 input but the sentinel, both operations answer a pattern of the same value
and sign, zero or normal. -/
def Obligations.WideningPreservesValueAndSign : Prop :=
  ∀ (a : Anchor) (n : Count) (s : State), s.inputs.operands.c8 ≠ 0xFF →
    let x := s.inputs.operands.c8
    (∃ y : Fp16, exec (.widenFp16 a n) s = .next (s.accept ⟨false, 0, y.setWidth 32⟩) ∧
      valueFp16 y = valueE4M3 x ∧ (decFp16 y).sign = (decE4M3 x).sign ∧
      (classFp16 y = .zero ∨ classFp16 y = .normal)) ∧
    (∃ y : Bf16, exec (.widenBf16 a n) s = .next (s.accept ⟨false, 0, y.setWidth 32⟩) ∧
      valueBf16 y = valueE4M3 x ∧ (decBf16 y).sign = (decE4M3 x).sign ∧
      (classBf16 y = .zero ∨ classBf16 y = .normal))

/-- 40_format_decoder.md R64: in the machine and in every other instance the sentinel widens to the canonical NaN with the
instance's mantissa and sign bit 1, a NaN for every nonzero mantissa, and at the defaults `0xFE00` and `0xFFC0`. -/
def Obligations.SentinelWidensToTheCanonicalNan : Prop :=
  (∀ (a : Anchor) (n : Count) (s : State), s.inputs.operands.c8 = 0xFF →
    exec (.widenFp16 a n) s =
      .next (s.accept ⟨false, 0, (encFp16 true 31 Config.canonNanFp16Mant.toNat).setWidth 32⟩) ∧
    exec (.widenBf16 a n) s =
      .next (s.accept ⟨false, 0, (encBf16 true 255 Config.canonNanBf16Mant.toNat).setWidth 32⟩)) ∧
  (∀ (p : Params) (a : Anchor) (n : Count) (s : State), s.inputs.operands.c8 = 0xFF →
    execWith p (.widenFp16 a n) s =
      .next (s.acceptWith p ⟨false, 0, (encFp16 true 31 p.canonNanFp16Mant.toNat).setWidth 32⟩) ∧
    execWith p (.widenBf16 a n) s =
      .next (s.acceptWith p ⟨false, 0, (encBf16 true 255 p.canonNanBf16Mant.toNat).setWidth 32⟩)) ∧
  (∀ m : BitVec 10, m ≠ 0 → widenFp16 m 0xFF = encFp16 true 31 m.toNat ∧
    classFp16 (widenFp16 m 0xFF) = .nan ∧ (decFp16 (widenFp16 m 0xFF)).sign = true) ∧
  (∀ m : BitVec 7, m ≠ 0 → widenBf16 m 0xFF = encBf16 true 255 m.toNat ∧
    classBf16 (widenBf16 m 0xFF) = .nan ∧ (decBf16 (widenBf16 m 0xFF)).sign = true) ∧
  widenFp16 0x200 0xFF = 0xFE00 ∧ widenBf16 0x40 0xFF = 0xFFC0

/-! ### `MUL.FP16` -/

/-- 41_fp16_multiplier.md R69: an operand with exponent field 0 makes the result a signed zero, whatever the other one. -/
def Obligations.MulOfZeroOrSubnormalIsSignedZero : Prop :=
  ∀ (a : Anchor) (n : Count) (s : State),
    let x := decFp16 s.inputs.operands.a
    let y := decFp16 s.inputs.operands.b
    (x.ef = 0 ∨ y.ef = 0) →
      exec (.mulFp16 a n) s = .next (s.accept ⟨false, 0, (encFp16 (xor x.sign y.sign) 0 0).setWidth 32⟩)

/-- 41_fp16_multiplier.md R68: the sign of the result is the exclusive or of the operands' signs in every case. -/
def Obligations.MulSignIsXorOfSigns : Prop :=
  ∀ (a : Anchor) (n : Count) (s : State), ∃ y : Fp16,
    exec (.mulFp16 a n) s = .next (s.accept ⟨false, 0, y.setWidth 32⟩) ∧
    (decFp16 y).sign = xor (decFp16 s.inputs.operands.a).sign (decFp16 s.inputs.operands.b).sign

/-- 41_fp16_multiplier.md R70 to R75, R79, in terms of the exact product of the operands, each taken as the rules take
it (an exponent field of 31 is an ordinary one, R70): below the smallest product that rounds up to `2^-14` it is
flushed, from 65520 on it is infinity, and between it is rounded to the nearest fp16 value, ties to even. -/
def Obligations.MulRoundsTheExactProductToNearestEven : Prop :=
  ∀ (a : Anchor) (n : Count) (s : State),
    (decFp16 s.inputs.operands.a).ef ≠ 0 → (decFp16 s.inputs.operands.b).ef ≠ 0 →
    let sign := xor (decFp16 s.inputs.operands.a).sign (decFp16 s.inputs.operands.b).sign
    let p := literalFp16 s.inputs.operands.a * literalFp16 s.inputs.operands.b
    let floor : ℚ := (1 - 1 / 2 ^ 12) / 2 ^ 14
    ∃ y : Fp16, exec (.mulFp16 a n) s = .next (s.accept ⟨false, 0, y.setWidth 32⟩) ∧
      (|p| < floor → y = encFp16 sign 0 0) ∧
      (65520 ≤ |p| → y = encFp16 sign 31 0) ∧
      (floor ≤ |p| → |p| < 65520 → IsNearestEvenFp16 y p)

/-- 41_fp16_multiplier.md R76 (an inference of the spec, marked derived): a product is a signed zero, a normal pattern
or a signed infinity. -/
def Obligations.MulResultIsZeroNormalOrInfinity : Prop :=
  ∀ (a : Anchor) (n : Count) (s : State), ∃ y : Fp16,
    exec (.mulFp16 a n) s = .next (s.accept ⟨false, 0, y.setWidth 32⟩) ∧
    (classFp16 y = .zero ∨ classFp16 y = .normal ∨ classFp16 y = .inf)

/-- 41_fp16_multiplier.md R78, its sentence marked derived: "The operation is commutative". -/
def Obligations.MulIsCommutative : Prop :=
  ∀ x y : Fp16, mulFp16 x y = mulFp16 y x

/-! ### `SEL.ANCHOR` -/

/-- 42_anchor_exponent_selector.md section 1 (R81 to R84): the anchor is the greatest exponent of the addend and the
products (fields as they stand, `-7..16`), plus `ceil(log2(N + 1)) + 1`, clamped to 8 bits. It is at most 23 because the
machine is the instance with the default `NMAX`, which is the model's choice (log 2). -/
def Obligations.SelAnchorIsTheMaximumPlusHeadroom : Prop :=
  ∀ (a : Anchor) (n : Count) (s : State), n.toNat ≤ Config.nmax →
    let products := s.inputs.operands.va.toList.take n.toNat
    let ofProduct : Fp16 → Int := fun p => ((p.extractLsb' 10 5).toNat : Int) - 15
    let ofAddend : Int := ((s.inputs.operands.c8.extractLsb' 3 4).toNat : Int) - 7
    ∃ (m : Int) (y : Anchor), exec (.selAnchor a n) s = .next (s.accept ⟨false, 0, y.setWidth 32⟩) ∧
      (m = ofAddend ∨ ∃ p ∈ products, m = ofProduct p) ∧ ofAddend ≤ m ∧ (∀ p ∈ products, ofProduct p ≤ m) ∧
      -7 ≤ m ∧ m ≤ 16 ∧
      (y.toNat : Int) = min 255 (max 0 (m + (Nat.clog 2 (n.toNat + 1) + 1 : Nat))) ∧ y.toNat ≤ 23

/-- 42_anchor_exponent_selector.md R86 (an inference of the spec, marked derived): aligned with the anchor selected for
them, the terms of a batch of any instance's size keep below `2^(32 - h(N))` without a wrap or a clamp, their magnitudes
together below `2^31`, and their `REDUCE` is their exact sum. -/
def Obligations.SelectedAnchorPreventsOverflow : Prop :=
  ∀ (products : List Fp16) (c : E4M3), products.length ≤ Config.laneBound →
    let anchor := selectAnchor products c
    let h := Nat.clog 2 (products.length + 1) + 1
    let fits : FloatFormat → Unpacked → Prop := fun f u =>
      -31 ≤ alignShift f u anchor.toNat ∧
        (alignShift f u anchor.toNat < 0 → significand f u * 2 ^ (-alignShift f u anchor.toNat).toNat < 2 ^ 32)
    (∀ p ∈ products, |(alignFp16 p anchor).toInt| < 2 ^ (32 - h) ∧ fits fp16Format (decFp16 p)) ∧
    |(alignE4M3 c anchor).toInt| < 2 ^ (32 - h) ∧ fits e4m3Format (decE4M3 c) ∧
    |(alignE4M3 c anchor).toInt| + (products.map fun p => |(alignFp16 p anchor).toInt|).sum < 2 ^ 31 ∧
    (reduceTerms (products.map (alignFp16 · anchor)) (alignE4M3 c anchor)).toInt =
      (alignE4M3 c anchor).toInt + (products.map fun p => (alignFp16 p anchor).toInt).sum

/-! ### `ALIGN.FP16`, `ALIGN.E4M3` -/

/-- 43_fxp_aligner_pipeline.md R87, R92, R95 and the bound of R99 that the spec marks derived: a magnitude that fits the
frame is truncated toward zero to whole frame units, and the sign is applied after. Exponent field 31 and the sentinel
are taken as they stand (R88). -/
def Obligations.AlignTruncatesTowardZeroInTheFrame : Prop :=
  ∀ (a : Anchor) (n : Count) (s : State),
    (frameUnits (literalFp16 s.inputs.operands.a) a < 2 ^ 31 →
      ∃ t : Fxp, exec (.alignFp16 a n) s = .next (s.accept ⟨false, 0, t⟩) ∧
        t.toInt = withSign (decFp16 s.inputs.operands.a).sign ⌊frameUnits (literalFp16 s.inputs.operands.a) a⌋) ∧
    (frameUnits (literalE4M3 s.inputs.operands.c8) a < 2 ^ 31 →
      ∃ t : Fxp, exec (.alignE4M3 a n) s = .next (s.accept ⟨false, 0, t⟩) ∧
        t.toInt = withSign (decE4M3 s.inputs.operands.c8).sign ⌊frameUnits (literalE4M3 s.inputs.operands.c8) a⌋)

/-- 43_fxp_aligner_pipeline.md R89, R91, R94: a zero input, a shift of 32 or more and a shift below -31 give 0. -/
def Obligations.AlignOutsideTheWindowIsZero : Prop :=
  ∀ (a : Anchor) (n : Count) (s : State),
    let u := decFp16 s.inputs.operands.a
    let v := decE4M3 s.inputs.operands.c8
    let shiftU : Int := 10 + a.toNat - 31 - (if u.ef = 0 then 1 - 15 else (u.ef : Int) - 15)
    let shiftV : Int := 3 + a.toNat - 31 - (if v.ef = 0 then 1 - 7 else (v.ef : Int) - 7)
    ((u.ef = 0 ∧ u.mf = 0) ∨ 32 ≤ shiftU ∨ shiftU < -31 →
      exec (.alignFp16 a n) s = .next (s.accept ⟨false, 0, 0⟩)) ∧
    ((v.ef = 0 ∧ v.mf = 0) ∨ 32 ≤ shiftV ∨ shiftV < -31 →
      exec (.alignE4M3 a n) s = .next (s.accept ⟨false, 0, 0⟩))

/-- 43_fxp_aligner_pipeline.md R93, R95: a left shift by at most 31 keeps the low 32 bits of the signed, shifted
significand. -/
def Obligations.AlignLeftShiftKeepsTheLowBits : Prop :=
  ∀ (a : Anchor) (n : Count) (s : State),
    let u := decFp16 s.inputs.operands.a
    let v := decE4M3 s.inputs.operands.c8
    let shiftU : Int := 10 + a.toNat - 31 - (if u.ef = 0 then 1 - 15 else (u.ef : Int) - 15)
    let shiftV : Int := 3 + a.toNat - 31 - (if v.ef = 0 then 1 - 7 else (v.ef : Int) - 7)
    let sigU : Int := if u.ef = 0 then u.mf else 1024 + u.mf
    let sigV : Int := if v.ef = 0 then v.mf else 8 + v.mf
    (-31 ≤ shiftU → shiftU < 0 → exec (.alignFp16 a n) s =
      .next (s.accept ⟨false, 0, BitVec.ofInt 32 (withSign u.sign (sigU * 2 ^ (-shiftU).toNat))⟩)) ∧
    (-31 ≤ shiftV → shiftV < 0 → exec (.alignE4M3 a n) s =
      .next (s.accept ⟨false, 0, BitVec.ofInt 32 (withSign v.sign (sigV * 2 ^ (-shiftV).toNat))⟩))

/-- 43_fxp_aligner_pipeline.md R98 (an inference of the spec, marked derived): at anchor 0, every value below a quarter
aligns exactly. -/
def Obligations.AlignAtAnchorZeroIsExactBelowAQuarter : Prop :=
  (∀ x : Fp16, |literalFp16 x| < 1 / 4 → frameValue (alignFp16 x 0) 0 = literalFp16 x) ∧
  (∀ x : E4M3, |literalE4M3 x| < 1 / 4 → frameValue (alignE4M3 x 0) 0 = literalE4M3 x)

/-! ### `REDUCE` -/

/-- 44_fixed_point_accumulator.md R101 (R100): for a legal `COUNT`, the exact sum of the addend and the first `COUNT`
terms, wrapped to 32 bits; `ANCHOR` and the further lanes are ignored; a `COUNT` above `NMAX` is illegal, cause 3. -/
def Obligations.ReduceIsTheExactSumWrapped : Prop :=
  ∀ (a : Anchor) (n : Count) (s : State),
    (n.toNat ≤ Config.nmax → exec (.reduce a n) s = .next (s.accept ⟨false, 0, BitVec.ofInt 32
      (s.inputs.operands.s32.toInt + ((s.inputs.operands.vi.toList.take n.toNat).map BitVec.toInt).sum)⟩)) ∧
    (Config.nmax < n.toNat → exec (.reduce a n) s = .next (s.accept ⟨true, 3, 0⟩))

/-- 44_fixed_point_accumulator.md R102 (an inference of the spec, marked derived): permuting the terms never changes the
result, even when the sum wraps. -/
def Obligations.ReduceIgnoresTheOrderOfTerms : Prop :=
  ∀ (a : Anchor) (n : Count) (s t : State), n.toNat ≤ Config.nmax →
    (s.inputs.operands.vi.toList.take n.toNat).Perm (t.inputs.operands.vi.toList.take n.toNat) →
    s.inputs.operands.s32 = t.inputs.operands.s32 →
    ∃ data : RespData, exec (.reduce a n) s = .next (s.accept ⟨false, 0, data⟩) ∧
      exec (.reduce a n) t = .next (t.accept ⟨false, 0, data⟩)

/-! ### `REQUANT.BF16` -/

/-- 45_fxp_to_bf16_requantizer.md R103: a zero sum gives positive zero with any anchor. -/
def Obligations.RequantOfZeroIsPositiveZero : Prop :=
  ∀ (a : Anchor) (n : Count) (s : State), s.inputs.operands.s32 = 0 →
    exec (.requantBf16 a n) s = .next (s.accept ⟨false, 0, 0⟩)

/-- 45_fxp_to_bf16_requantizer.md R104 to R109 and R111 part 1, which the spec marks derived: a nonzero sum in the frame
of its anchor is rounded once, to the nearest bf16 value, ties to even, or from `2^128 - 2^119` on a signed
infinity. -/
def Obligations.RequantRoundsToNearestEven : Prop :=
  ∀ (a : Anchor) (n : Count) (s : State), s.inputs.operands.s32 ≠ 0 →
    let t := s.inputs.operands.s32
    let x := frameValue t a
    ∃ y : Bf16, exec (.requantBf16 a n) s = .next (s.accept ⟨false, 0, y.setWidth 32⟩) ∧
      (2 ^ 128 - 2 ^ 119 ≤ |x| → y = encBf16 (decide (t.toInt < 0)) 255 0) ∧
      (|x| < 2 ^ 128 - 2 ^ 119 → IsNearestEvenBf16 y x ∧ (decBf16 y).sign = decide (t.toInt < 0))

/-- 45_fxp_to_bf16_requantizer.md R111 part 2, "Round-trip identity": a sum whose value is that of a normal bf16 pattern
gives that pattern. -/
def Obligations.RequantReturnsRepresentableValuesUnchanged : Prop :=
  ∀ (a : Anchor) (n : Count) (s : State) (y : Bf16), classBf16 y = .normal →
    frameValue s.inputs.operands.s32 a = literalBf16 y →
    exec (.requantBf16 a n) s = .next (s.accept ⟨false, 0, y.setWidth 32⟩)

/-- 45_fxp_to_bf16_requantizer.md R111 parts 3 and 4: the result is `0x0000`, a normal pattern or a signed infinity, and
no infinity for an anchor of at most 127. -/
def Obligations.RequantResultIsZeroNormalOrInfinity : Prop :=
  ∀ (a : Anchor) (n : Count) (s : State), ∃ y : Bf16,
    exec (.requantBf16 a n) s = .next (s.accept ⟨false, 0, y.setWidth 32⟩) ∧
    (y = 0 ∨ classBf16 y = .normal ∨ (classBf16 y = .inf ∧ 127 < a.toNat))

/-- 70_reset_and_hazards.md R125 (an inference of the spec, marked derived): with another anchor than the terms were
aligned with, the result is the intended one times the power of two between the anchors; no check detects it. -/
def Obligations.RequantWithAnotherAnchorScalesTheResult : Prop :=
  ∀ (t : Fxp) (a b : Anchor), classBf16 (requantBf16 t a) ≠ .inf → classBf16 (requantBf16 t b) ≠ .inf →
    literalBf16 (requantBf16 t b) = literalBf16 (requantBf16 t a) * (2 : ℚ) ^ ((b.toNat : Int) - a.toNat)

/-! ### `MAC` and `MAC.E4M3` -/

/-- 46_mac_composite.md R112 and R113 part 4, which the spec marks derived: `MAC` answers what the sequence of separate
transactions answers. -/
def Obligations.MacEqualsTheSequenceOfTransactions : Prop :=
  ∀ (a : Anchor) (n : Count) (s : State), n.toNat ≤ Config.nmax →
    exec (.mac a n) s = .next (s.accept (macBySequence (s.inputs.operands.va.toList.take n.toNat)
      (s.inputs.operands.vb.toList.take n.toNat) s.inputs.operands.c8))

/-- 46_mac_composite.md R113 part 2, marked derived: permuting the pairs together never changes the result. -/
def Obligations.MacIgnoresTheOrderOfPairs : Prop :=
  ∀ (a : Anchor) (n : Count) (s t : State), n.toNat ≤ Config.nmax →
    ((s.inputs.operands.va.toList.take n.toNat).zip (s.inputs.operands.vb.toList.take n.toNat)).Perm
      ((t.inputs.operands.va.toList.take n.toNat).zip (t.inputs.operands.vb.toList.take n.toNat)) →
    s.inputs.operands.c8 = t.inputs.operands.c8 →
    ∃ data : RespData, exec (.mac a n) s = .next (s.accept ⟨false, 0, data⟩) ∧
      exec (.mac a n) t = .next (t.accept ⟨false, 0, data⟩)

/-- 46_mac_composite.md R113 part 3, marked derived: the result is the nearest bf16 value, ties to even, of a number
less than `N + 1` frame units away from the exact sum of the rounded products and the addend, every term taken as the
aligner takes it. -/
def Obligations.MacErrorIsBelowOneFrameUnitPerTerm : Prop :=
  ∀ (a : Anchor) (n : Count) (s : State), n.toNat ≤ Config.nmax →
    let va := s.inputs.operands.va.toList.take n.toNat
    let vb := s.inputs.operands.vb.toList.take n.toNat
    let c := s.inputs.operands.c8
    let exactSum := literalE4M3 c + ((List.zipWith mulFp16 va vb).map literalFp16).sum
    ∃ (y : Bf16) (x : ℚ), exec (.mac a n) s = .next (s.accept ⟨false, 0, y.setWidth 32⟩) ∧
      IsNearestEvenBf16 y x ∧
      |exactSum - x| < (n.toNat + 1) * (2 : ℚ) ^ (((macAnchor va vb c).toNat : Int) - 31)

/-- 46_mac_composite.md R112: a `MAC` result is `0x0000` or a normal pattern, never NaN and, with the default `NMAX` of
32 lanes (log 2), never infinity; the spec marks the sentence derived. -/
def Obligations.MacResultIsZeroOrNormal : Prop :=
  ∀ (a : Anchor) (n : Count) (s : State), n.toNat ≤ Config.nmax →
    ∃ y : Bf16, exec (.mac a n) s = .next (s.accept ⟨false, 0, y.setWidth 32⟩) ∧ (y = 0 ∨ classBf16 y = .normal)

/-- 46_mac_composite.md R112, the corner case `N = 0`: the result has the value of the addend, the sentinel taken as
-480. -/
def Obligations.MacOfNoPairsIsTheAddend : Prop :=
  ∀ (a : Anchor) (s : State), ∃ y : Bf16,
    exec (.mac a 0) s = .next (s.accept ⟨false, 0, y.setWidth 32⟩) ∧ literalBf16 y = literalE4M3 s.inputs.operands.c8

/-- 30_encoding.md R55: the expansion of `MAC.E4M3` ends in the dot product of the widened multiplicands. -/
def Obligations.MacOfE4M3WidensItsMultiplicands : Prop :=
  ∀ (ea eb : List E4M3) (c : E4M3), ea.length = eb.length → ea.length ≤ Config.nmax →
    (macE4M3Request ea eb c).response =
      ⟨false, 0, (macBf16 (ea.map (widenFp16 Config.canonNanFp16Mant)) (eb.map (widenFp16 Config.canonNanFp16Mant))
        c).setWidth 32⟩
end

