-- ==== Sys2Proof/Laws/Formats.lean ====
section
/-! SUPPORT. The ranges of the decoded fields, the integer primitives, and the lanes an operation uses. -/

namespace Sys2Proof.Machine

theorem decE4M3_ef_lt (x : E4M3) : (decE4M3 x).ef < 16 := (x.extractLsb' 3 4).isLt
theorem decE4M3_mf_lt (x : E4M3) : (decE4M3 x).mf < 8 := (x.extractLsb' 0 3).isLt
theorem decFp16_ef_lt (x : Fp16) : (decFp16 x).ef < 32 := (x.extractLsb' 10 5).isLt
theorem decFp16_mf_lt (x : Fp16) : (decFp16 x).mf < 1024 := (x.extractLsb' 0 10).isLt
theorem decBf16_ef_lt (x : Bf16) : (decBf16 x).ef < 256 := (x.extractLsb' 7 8).isLt
theorem decBf16_mf_lt (x : Bf16) : (decBf16 x).mf < 128 := (x.extractLsb' 0 7).isLt

/-- Concatenation in numbers: the first part in the high bits (00_scope.md R14). -/
theorem toNat_append_eq {n m : Nat} (x : BitVec n) (y : BitVec m) : (x ++ y).toNat = x.toNat * 2 ^ m + y.toNat := by
  rw [BitVec.toNat_append, ← Nat.shiftLeft_add_eq_or_of_lt y.isLt, Nat.shiftLeft_eq]

theorem toNat_ofBool_eq (s : Bool) : (BitVec.ofBool s).toNat = s.toNat := by cases s <;> rfl

/-- `enc_fp16` in numbers (40_format_decoder.md R61). -/
theorem encFp16_toNat (s : Bool) (ef mf : Nat) :
    (encFp16 s ef mf).toNat = (s.toNat * 2 ^ 5 + ef % 2 ^ 5) * 2 ^ 10 + mf % 2 ^ 10 := by
  refine (toNat_append_eq (BitVec.ofBool s ++ BitVec.ofNat 5 ef) (BitVec.ofNat 10 mf)).trans ?_
  rw [toNat_append_eq (BitVec.ofBool s), toNat_ofBool_eq, BitVec.toNat_ofNat, BitVec.toNat_ofNat]

/-- `enc_bf16` in numbers (40_format_decoder.md R61). -/
theorem encBf16_toNat (s : Bool) (ef mf : Nat) :
    (encBf16 s ef mf).toNat = (s.toNat * 2 ^ 8 + ef % 2 ^ 8) * 2 ^ 7 + mf % 2 ^ 7 := by
  refine (toNat_append_eq (BitVec.ofBool s ++ BitVec.ofNat 8 ef) (BitVec.ofNat 7 mf)).trans ?_
  rw [toNat_append_eq (BitVec.ofBool s), toNat_ofBool_eq, BitVec.toNat_ofNat, BitVec.toNat_ofNat]

/-- `dec_fp16` in numbers (40_format_decoder.md R57). -/
theorem decFp16_eq (x : Fp16) : decFp16 x = ⟨decide (2 ^ 15 ≤ x.toNat), x.toNat / 2 ^ 10 % 2 ^ 5, x.toNat % 2 ^ 10⟩ := by
  have h : x.getLsbD 15 = decide (2 ^ 15 ≤ x.toNat) := BitVec.msb_eq_getLsbD_last x ▸ BitVec.msb_eq_decide x
  simp only [decFp16, h, BitVec.extractLsb'_toNat, Nat.shiftRight_eq_div_pow, pow_zero, Nat.div_one]

/-- `dec_bf16` in numbers (40_format_decoder.md R57). -/
theorem decBf16_eq (x : Bf16) : decBf16 x = ⟨decide (2 ^ 15 ≤ x.toNat), x.toNat / 2 ^ 7 % 2 ^ 8, x.toNat % 2 ^ 7⟩ := by
  have h : x.getLsbD 15 = decide (2 ^ 15 ≤ x.toNat) := BitVec.msb_eq_getLsbD_last x ▸ BitVec.msb_eq_decide x
  simp only [decBf16, h, BitVec.extractLsb'_toNat, Nat.shiftRight_eq_div_pow, pow_zero, Nat.div_one]

/-- Fields in range are what decoding gives back (40_format_decoder.md R61). -/
theorem decFp16_encFp16 (s : Bool) (ef mf : Nat) (he : ef < 32) (hm : mf < 1024) :
    decFp16 (encFp16 s ef mf) = ⟨s, ef, mf⟩ := by
  rw [decFp16_eq, encFp16_toNat]
  cases s <;> simp <;> omega

/-- Fields in range are what decoding gives back (40_format_decoder.md R61). -/
theorem decBf16_encBf16 (s : Bool) (ef mf : Nat) (he : ef < 256) (hm : mf < 128) :
    decBf16 (encBf16 s ef mf) = ⟨s, ef, mf⟩ := by
  rw [decBf16_eq, encBf16_toNat]
  cases s <;> simp <;> omega

/-- The significand has at most one bit more than the fraction (40_format_decoder.md R60). -/
theorem significand_lt (f : FloatFormat) (u : Unpacked) (h : u.mf < 2 ^ f.fracBits) :
    significand f u < 2 ^ (f.fracBits + 1) := by
  unfold significand
  rw [pow_succ]
  split <;> omega

/-- Packing a signed value that was wrapped is packing the value. -/
theorem u32_wrap32 (v : Int) : u32 (wrap32 v) = BitVec.ofInt 32 v := by
  apply BitVec.eq_of_toInt_eq
  simp [u32, wrap32, BitVec.toInt_ofInt]

/-- A value in the signed 32-bit range reads back unchanged. -/
theorem u32_toInt (v : Int) (hl : -2 ^ 31 ≤ v) (hu : v < 2 ^ 31) : (u32 v).toInt = v := by
  unfold u32
  rw [BitVec.toInt_ofInt]
  exact Int.bmod_eq_of_le (by omega) (by omega)

theorem bitlen_zero : bitlen 0 = 0 := rfl

/-- A positive number lies between the powers of two at its most significant bit. -/
theorem msb_bounds (n : Nat) (h : n ≠ 0) : 2 ^ msb n ≤ n ∧ n < 2 ^ (msb n + 1) := by
  have hm : msb n = Nat.log2 n := by simp [msb, bitlen, h]
  rw [hm]
  exact ⟨Nat.log2_self_le h, Nat.lt_log2_self⟩

/-- The headroom in the spec's first form, `ceil(log2(N + 1)) + 1` (42_anchor_exponent_selector.md R83). -/
theorem headroom_eq_clog (n : Nat) : headroom n = Nat.clog 2 (n + 1) + 1 := by
  unfold headroom bitlen
  by_cases h : n = 0
  · simp [h]
  · simp only [h, if_false]
    congr 1
    refine le_antisymm ?_ ?_
    · have h1 : n.log2 < Nat.clog 2 (n + 1) :=
        (Nat.lt_clog_iff_pow_lt (by norm_num)).2 (Nat.lt_succ_of_le (Nat.log2_self_le h))
      omega
    · exact Nat.clog_le_of_le_pow Nat.lt_log2_self

/-- The lanes an operation uses are as many as `COUNT`: the buses have all that it can name. -/
theorem lanesUsed_length {w : Nat} (v : Vector (BitVec w) Config.laneBound) (n : Count) :
    (lanesUsed v n).length = n.toNat := by
  have h : n.toNat ≤ Config.laneBound := Nat.le_of_lt_succ n.isLt
  simp only [lanesUsed, countOperand, List.length_take, Vector.length_toList]
  omega

/-- A zero's fields are the number 0 too, so every finite pattern denotes the number its fields are
(40_format_decoder.md R59, R60). -/
theorem denotationOf_finite (c : FloatClass) (f : FloatFormat) (u : Unpacked) (hf : c.isFinite = true)
    (hz : c = .zero → u.ef = 0 ∧ u.mf = 0) : denotationOf c f u = .real (literalValue f u) := by
  cases c with
  | zero =>
    obtain ⟨he, hm⟩ := hz rfl
    simp [denotationOf, literalValue, significand, he, hm]
  | subnormal => rfl
  | normal => rfl
  | inf => cases hf
  | nan => cases hf

/-- The class of a zero is that of the zero fields (40_format_decoder.md R58). -/
theorem classOf_zero {emax : Nat} {u : Unpacked} (h : classOf emax u = .zero) : u.ef = 0 ∧ u.mf = 0 := by
  unfold classOf at h
  split at h
  · split at h
    · exact ⟨‹_›, ‹_›⟩
    · cases h
  · split at h
    · split at h <;> cases h
    · cases h

theorem valueFp16_of_finite (x : Fp16) (h : (classFp16 x).isFinite = true) : valueFp16 x = .real (literalFp16 x) :=
  denotationOf_finite _ _ _ h classOf_zero

theorem valueBf16_of_finite (x : Bf16) (h : (classBf16 x).isFinite = true) : valueBf16 x = .real (literalBf16 x) :=
  denotationOf_finite _ _ _ h classOf_zero

theorem valueE4M3_of_not_sentinel (x : E4M3) (h : x ≠ 0xFF) : valueE4M3 x = .real (literalE4M3 x) := by
  refine denotationOf_finite _ _ _ ?_ ?_
  · unfold classE4M3
    rw [if_neg h]
    split
    · split <;> rfl
    · rfl
  · intro hc
    unfold classE4M3 at hc
    rw [if_neg h] at hc
    split at hc
    · split at hc
      · exact ⟨‹_›, ‹_›⟩
      · cases hc
    · cases hc

/-- The running maximum is the initial value or an element, and bounds them all (42_anchor_exponent_selector.md R82). -/
theorem foldl_max_spec {α : Type} (f : α → Int) (xs : List α) (init : Int) :
    let m := xs.foldl (fun m x => max m (f x)) init
    (m = init ∨ ∃ x ∈ xs, m = f x) ∧ init ≤ m ∧ ∀ x ∈ xs, f x ≤ m := by
  induction xs generalizing init with
  | nil => simp
  | cons y ys ih =>
    obtain ⟨h1, h2, h3⟩ := ih (max init (f y))
    refine ⟨?_, le_trans (le_max_left _ _) h2, ?_⟩
    · rcases h1 with h1 | ⟨x, hx, h1⟩
      · rcases max_choice init (f y) with hm | hm
        · exact .inl (by simpa [hm] using h1)
        · exact .inr ⟨y, List.mem_cons_self, by simpa [hm] using h1⟩
      · exact .inr ⟨x, List.mem_cons_of_mem _ hx, h1⟩
    · intro x hx
      rcases List.mem_cons.1 hx with rfl | hx
      · exact le_trans (le_max_right _ _) h2
      · exact h3 x hx

/-- The magnitude of an aligned value fits 32 bits (43_fxp_aligner_pipeline.md R91 to R94). -/
theorem alignMag_lt (sig : Nat) (shift : Int) (h : sig < 2 ^ 32) : alignMag sig shift < 2 ^ 32 := by
  unfold alignMag
  split
  · norm_num
  · split
    · exact lt_of_le_of_lt (Nat.shiftRight_le sig _) h
    · split
      · exact Nat.mod_lt _ (by norm_num)
      · norm_num

end Sys2Proof.Machine
end

