-- ==== Sys2Proof/Laws/State.lean ====
section
/-! SUPPORT. One lemma per field per update of the state, each true by `rfl`, so that no later proof unfolds a record
update. -/

namespace Sys2Proof.Machine

@[simp] theorem State.clock_inputs (s : State) (es : List InFlight) : (s.clock es).inputs = s.inputs := rfl
@[simp] theorem State.clock_fifo (s : State) (es : List InFlight) : (s.clock es).fifo = retire s.fifo ++ es := rfl
@[simp] theorem State.clock_stall (s : State) (es : List InFlight) :
    (s.clock es).stall = if s.ready then Config.readyGap s.cycle else s.stall - 1 := rfl
@[simp] theorem State.clock_ready (s : State) (es : List InFlight) :
    (s.clock es).ready = ((s.clock es).stall == 0 && decide ((s.clock es).fifo.length < Config.fifoDepth)) := rfl
@[simp] theorem State.clock_cycle (s : State) (es : List InFlight) : (s.clock es).cycle = s.cycle + 1 := rfl

@[simp] theorem State.acceptWith_inputs (p : Params) (s : State) (r : Response) :
    (s.acceptWith p r).inputs = s.inputs := rfl
@[simp] theorem State.acceptWith_fifo (p : Params) (s : State) (r : Response) :
    (s.acceptWith p r).fifo = retire s.fifo ++ [⟨r, p.latency⟩] := rfl
@[simp] theorem State.acceptWith_stall (p : Params) (s : State) (r : Response) :
    (s.acceptWith p r).stall = if s.ready then Config.readyGap s.cycle else s.stall - 1 := rfl
@[simp] theorem State.acceptWith_ready (p : Params) (s : State) (r : Response) :
    (s.acceptWith p r).ready =
      ((s.acceptWith p r).stall == 0 && decide ((s.acceptWith p r).fifo.length < Config.fifoDepth)) := rfl
@[simp] theorem State.acceptWith_cycle (p : Params) (s : State) (r : Response) :
    (s.acceptWith p r).cycle = s.cycle + 1 := rfl

@[simp] theorem State.accept_inputs (s : State) (r : Response) : (s.accept r).inputs = s.inputs := rfl
@[simp] theorem State.accept_fifo (s : State) (r : Response) :
    (s.accept r).fifo = retire s.fifo ++ [⟨r, Config.latency⟩] := rfl
@[simp] theorem State.accept_stall (s : State) (r : Response) :
    (s.accept r).stall = if s.ready then Config.readyGap s.cycle else s.stall - 1 := rfl
@[simp] theorem State.accept_ready (s : State) (r : Response) :
    (s.accept r).ready = ((s.accept r).stall == 0 && decide ((s.accept r).fifo.length < Config.fifoDepth)) := rfl
@[simp] theorem State.accept_cycle (s : State) (r : Response) : (s.accept r).cycle = s.cycle + 1 := rfl

@[simp] theorem State.idle_inputs (s : State) : s.idle.inputs = s.inputs := rfl
@[simp] theorem State.idle_fifo (s : State) : s.idle.fifo = retire s.fifo := List.append_nil _
@[simp] theorem State.idle_stall (s : State) :
    s.idle.stall = if s.ready then Config.readyGap s.cycle else s.stall - 1 := rfl
@[simp] theorem State.idle_ready (s : State) :
    s.idle.ready = (s.idle.stall == 0 && decide (s.idle.fifo.length < Config.fifoDepth)) := rfl
@[simp] theorem State.idle_cycle (s : State) : s.idle.cycle = s.cycle + 1 := rfl

@[simp] theorem State.resetCycle_inputs (s : State) : s.resetCycle.inputs = s.inputs := rfl
@[simp] theorem State.resetCycle_fifo (s : State) : s.resetCycle.fifo = [] := rfl
@[simp] theorem State.resetCycle_ready (s : State) : s.resetCycle.ready = (Config.readyGap s.cycle == 0) := rfl
@[simp] theorem State.resetCycle_stall (s : State) : s.resetCycle.stall = Config.readyGap s.cycle := rfl
@[simp] theorem State.resetCycle_cycle (s : State) : s.resetCycle.cycle = s.cycle + 1 := rfl

@[simp] theorem State.drive_inputs (s : State) (i : Inputs) : (s.drive i).inputs = i := rfl
@[simp] theorem State.drive_fifo (s : State) (i : Inputs) : (s.drive i).fifo = s.fifo := rfl
@[simp] theorem State.drive_ready (s : State) (i : Inputs) : (s.drive i).ready = s.ready := rfl
@[simp] theorem State.drive_stall (s : State) (i : Inputs) : (s.drive i).stall = s.stall := rfl
@[simp] theorem State.drive_cycle (s : State) (i : Inputs) : (s.drive i).cycle = s.cycle := rfl

@[simp] theorem State.withFetchWord_fifo (s : State) (nbits w : Nat) : (s.withFetchWord nbits w).fifo = s.fifo := rfl
@[simp] theorem State.withFetchWord_ready (s : State) (nbits w : Nat) : (s.withFetchWord nbits w).ready = true := rfl
@[simp] theorem State.withFetchWord_stall (s : State) (nbits w : Nat) : (s.withFetchWord nbits w).stall = s.stall := rfl
@[simp] theorem State.withFetchWord_cycle (s : State) (nbits w : Nat) : (s.withFetchWord nbits w).cycle = s.cycle := rfl
@[simp] theorem State.withFetchWord_cmd (s : State) (nbits w : Nat) :
    (s.withFetchWord nbits w).inputs.cmd = BitVec.ofNat 32 (w % 2 ^ nbits) := rfl
@[simp] theorem State.withFetchWord_operands (s : State) (nbits w : Nat) :
    (s.withFetchWord nbits w).inputs.operands = s.inputs.operands := rfl

/-- The word placed by `withFetchWord` is sampled in the next step. -/
@[simp] theorem State.withFetchWord_sampled (s : State) (nbits w : Nat) :
    (s.withFetchWord nbits w).sampled = some (BitVec.ofNat 32 (w % 2 ^ nbits)) := rfl

end Sys2Proof.Machine
end

