-- ==== Sys2Proof/Laws/Ops.lean ====
section
/-! SUPPORT. What the shared operations can do, said once: the FIFO's cycle, the handshake, the count check, and the cases
of a step. -/

namespace Sys2Proof.Machine

@[simp] theorem InFlight.tick_response (e : InFlight) : e.tick.response = e.response := rfl
@[simp] theorem InFlight.tick_wait (e : InFlight) : e.tick.wait = e.wait - 1 := rfl

@[simp] theorem retire_nil : retire [] = [] := rfl

theorem retire_cons_due (e : InFlight) (es : List InFlight) (h : e.wait = 0) :
    retire (e :: es) = es.map InFlight.tick := by simp [retire, h]

theorem retire_cons_waiting (e : InFlight) (es : List InFlight) (h : e.wait ≠ 0) :
    retire (e :: es) = (e :: es).map InFlight.tick := by simp [retire, h]

/-- `retire` in the words of the statements. -/
theorem retire_eq_survivors (fifo : List InFlight) : retire fifo = survivors fifo := by
  cases fifo with
  | nil => rfl
  | cons e es => by_cases h : e.wait = 0 <;> simp [retire, survivors, h, InFlight.tick]

theorem retire_length_le (fifo : List InFlight) : (retire fifo).length ≤ fifo.length := by
  cases fifo with
  | nil => simp
  | cons e es => by_cases h : e.wait = 0 <;> simp [retire, h]

/-- A cycle brings no new response into the FIFO. -/
theorem response_mem_of_mem_retire {fifo : List InFlight} {e : InFlight} (h : e ∈ retire fifo) :
    ∃ d ∈ fifo, d.response = e.response := by
  cases fifo with
  | nil => simp at h
  | cons d ds =>
    by_cases hd : d.wait = 0
    · rw [retire_cons_due d ds hd, List.mem_map] at h
      obtain ⟨x, hx, rfl⟩ := h
      exact ⟨x, List.mem_cons_of_mem _ hx, rfl⟩
    · rw [retire_cons_waiting d ds hd, List.mem_map] at h
      obtain ⟨x, hx, rfl⟩ := h
      exact ⟨x, hx, rfl⟩

/-- With reset released, what is presented and what is left after the cycle are together the FIFO, in order. -/
theorem presented_append_retire (s : State) (h : s.inputs.rstN = true) :
    s.presented.toList ++ (retire s.fifo).map InFlight.response = s.fifo.map InFlight.response := by
  unfold State.presented
  cases hf : s.fifo with
  | nil => simp [h]
  | cons e es => by_cases he : e.wait = 0 <;> simp [h, retire, he]

theorem presented_of_reset (s : State) (h : s.inputs.rstN = false) : s.presented = none := by
  simp [State.presented, h]

@[simp] theorem State.drive_sampled_of_reset (s : State) (i : Inputs) (h : i.rstN = false) :
    (s.drive i).sampled = none := by
  simp [State.sampled, State.handshake, State.reqReady, h]

/-- A request is accepted exactly with `rst_n`, `req_valid` and the block's readiness together. -/
theorem State.handshake_iff (s : State) :
    s.handshake = true ↔ s.inputs.rstN = true ∧ s.inputs.reqValid = true ∧ s.ready = true := by
  unfold State.handshake State.reqReady
  cases s.inputs.rstN <;> cases s.inputs.reqValid <;> cases s.ready <;> decide

theorem State.sampled_of_handshake (s : State) (h : s.handshake = true) : s.sampled = some s.inputs.cmd := by
  simp [State.sampled, h]

theorem State.sampled_of_no_handshake (s : State) (h : s.handshake = false) : s.sampled = none := by
  simp [State.sampled, h]

theorem countLegal_iff (nmax : Nat) (n : Count) : countLegal nmax n = true ↔ n.toNat ≤ nmax := by
  unfold countLegal countOperand
  exact decide_eq_true_iff

theorem acceptCounted_of_legal (p : Params) (s : State) (n : Count) (d : RespData) (h : n.toNat ≤ p.nmax) :
    s.acceptCounted p (countLegal p.nmax n) d = s.acceptWith p (okResponse d) :=
  if_pos ((countLegal_iff _ n).2 h)

theorem acceptCounted_of_illegal (p : Params) (s : State) (n : Count) (d : RespData) (h : p.nmax < n.toNat) :
    s.acceptCounted p (countLegal p.nmax n) d = s.acceptWith p ⟨true, 3, 0⟩ :=
  if_neg fun hl => absurd ((countLegal_iff _ n).1 hl) (Nat.not_le.2 h)

/-- Two accepting cycles from one state are the same only if they append the same response. -/
theorem State.acceptWith_inj (p : Params) (s : State) {r q : Response} (h : s.acceptWith p r = s.acceptWith p q) :
    r = q := by
  have := congrArg State.fifo h
  simpa using this

@[simp] theorem State.withOperands_operands (s : State) (o : Operands) : (s.withOperands o).inputs.operands = o := rfl

theorem okResponse_wf (d : RespData) : (okResponse d).wf = true := rfl

theorem errorResponse_wf (e : CommandError) : (errorResponse e).wf = true := by cases e <;> rfl

theorem acceptCounted_appends (p : Params) (s : State) (inRange : Bool) (d : RespData) :
    ∃ r : Response, r.wf = true ∧ s.acceptCounted p inRange d = s.acceptWith p r := by
  cases inRange with
  | true => exact ⟨_, okResponse_wf d, rfl⟩
  | false => exact ⟨_, errorResponse_wf .countOutOfRange, rfl⟩

/-- The one thing that any command does in an instance: it appends a response of one of the two forms. -/
theorem execWith_appends (p : Params) (i : Instr) (s : State) :
    ∃ r : Response, r.wf = true ∧ execWith p i s = .next (s.acceptWith p r) := by
  have counted : ∀ (b : Bool) (d : RespData),
      ∃ r : Response, r.wf = true ∧
        (Host.Outcome.next (s.acceptCounted p b d) : Host.Outcome State Fault Refusal) = .next (s.acceptWith p r) :=
    fun b d => let ⟨r, hw, he⟩ := acceptCounted_appends p s b d; ⟨r, hw, congrArg _ he⟩
  cases i with
  | widenFp16 a n => exact ⟨_, okResponse_wf _, rfl⟩
  | widenBf16 a n => exact ⟨_, okResponse_wf _, rfl⟩
  | mulFp16 a n => exact ⟨_, okResponse_wf _, rfl⟩
  | selAnchor a n => exact counted _ _
  | alignFp16 a n => exact ⟨_, okResponse_wf _, rfl⟩
  | alignE4M3 a n => exact ⟨_, okResponse_wf _, rfl⟩
  | reduce a n => exact counted _ _
  | requantBf16 a n => exact ⟨_, okResponse_wf _, rfl⟩
  | mac a n => exact counted _ _

/-- `exec` is `execWith` in the machine's instance. -/
theorem exec_eq_execWith (i : Instr) (s : State) : exec i s = execWith Config.block i s := by cases i <;> rfl

/-- The one thing that any command does. -/
theorem exec_appends (i : Instr) (s : State) : ∃ r : Response, r.wf = true ∧ exec i s = .next (s.accept r) := by
  rw [exec_eq_execWith]
  exact execWith_appends Config.block i s

/-- Everything a step of an instance can do: a reset cycle, a cycle without acceptance, or the acceptance of one
request. -/
theorem stepWith_cases (p : Params) (s : State) :
    (s.inputs.rstN = false ∧ stepWith p s = .next s.resetCycle) ∨
    (s.inputs.rstN = true ∧ s.handshake = false ∧ stepWith p s = .next s.idle) ∨
    (s.inputs.rstN = true ∧ s.handshake = true ∧
      ∃ r : Response, r.wf = true ∧ stepWith p s = .next (s.acceptWith p r)) := by
  unfold stepWith cycleOf
  cases hr : s.inputs.rstN with
  | false => exact .inl ⟨rfl, rfl⟩
  | true =>
    cases hh : s.handshake with
    | false => exact .inr (.inl ⟨rfl, rfl, by simp only [s.sampled_of_no_handshake hh]⟩)
    | true =>
      refine .inr (.inr ⟨rfl, rfl, ?_⟩)
      simp only [s.sampled_of_handshake hh]
      cases decode s.inputs.cmd with
      | ok i => exact execWith_appends p i s
      | error e => exact ⟨_, errorResponse_wf e, rfl⟩

/-- `step` is `stepWith` in the machine's instance. -/
theorem step_eq_stepWith (s : State) : step s = stepWith Config.block s := by
  unfold step stepWith
  rw [show exec = execWith Config.block from funext fun i => funext fun s => exec_eq_execWith i s]

/-- Everything a step can do: a reset cycle, a cycle without acceptance, or the acceptance of one request. -/
theorem step_cases {s t : State} (h : step s = .next t) :
    (s.inputs.rstN = false ∧ t = s.resetCycle) ∨
    (s.inputs.rstN = true ∧ s.handshake = false ∧ t = s.idle) ∨
    (s.handshake = true ∧ ∃ r : Response, r.wf = true ∧ t = s.accept r) := by
  rw [step_eq_stepWith] at h
  rcases stepWith_cases Config.block s with ⟨hr, hs⟩ | ⟨hr, hh, hs⟩ | ⟨-, hh, r, hw, hs⟩ <;>
    simp only [hs, Host.Outcome.next.injEq] at h
  · exact .inl ⟨hr, h.symm⟩
  · exact .inr (.inl ⟨hr, hh, h.symm⟩)
  · exact .inr (.inr ⟨hh, r, hw, h.symm⟩)

end Sys2Proof.Machine
end

