-- ==== Sys2Proof/Laws/PerInstr.lean ====
section
/-! SUPPORT. A family of statements made per instruction: the encoded word has the fixed bits of its row of
spec/opcode_table.json, and the fields of 30_encoding.md R47 in their places. -/

namespace Sys2Proof.Laws

/-- The bits that every row of the opcode table fixes. -/
def rowMask : CmdWord := 0xFFC000FF

/-- The row's fixed bits. -/
def rowMatch : Instr → CmdWord
  | .widenFp16 _ _ => 0x00000000
  | .widenBf16 _ _ => 0x00000001
  | .mulFp16 _ _ => 0x00000002
  | .selAnchor _ _ => 0x00000003
  | .alignFp16 _ _ => 0x00000004
  | .alignE4M3 _ _ => 0x00000005
  | .reduce _ _ => 0x00000006
  | .requantBf16 _ _ => 0x00000007
  | .mac _ _ => 0x00000008

/-- The word of a command carries its row's fixed bits, its `ANCHOR` and its `COUNT`. -/
def RowWord.Statement (i : Instr) : Prop :=
  encode i &&& rowMask = rowMatch i ∧ anchorField (encode i) = i.anchor ∧ countField (encode i) = i.count

/-- The fields of a word put together from fields; the shape of `encode`. -/
theorem RowWord.fields_of_word (n : Count) (a : Anchor) (op : BitVec 4) :
    let w : CmdWord := (0 : BitVec 10) ++ n ++ a ++ (0 : BitVec 4) ++ op
    w &&& rowMask = (0 : BitVec 28) ++ op ∧ anchorField w = a ∧ countField w = n := by
  refine ⟨?_, ?_, ?_⟩
  · apply BitVec.eq_of_getLsbD_eq
    intro i hi
    simp only [BitVec.getLsbD_and, BitVec.getLsbD_append, rowMask]
    interval_cases i <;> simp
  · apply BitVec.eq_of_getLsbD_eq
    intro i hi
    simp only [anchorField, BitVec.getLsbD_extractLsb', BitVec.getLsbD_append]
    interval_cases i <;> simp
  · apply BitVec.eq_of_getLsbD_eq
    intro i hi
    simp only [countField, BitVec.getLsbD_extractLsb', BitVec.getLsbD_append]
    interval_cases i <;> simp

theorem RowWord.widenFp16 (a : Anchor) (n : Count) : RowWord.Statement (.widenFp16 a n) :=
  RowWord.fields_of_word n a 0x0
theorem RowWord.widenBf16 (a : Anchor) (n : Count) : RowWord.Statement (.widenBf16 a n) :=
  RowWord.fields_of_word n a 0x1
theorem RowWord.mulFp16 (a : Anchor) (n : Count) : RowWord.Statement (.mulFp16 a n) :=
  RowWord.fields_of_word n a 0x2
theorem RowWord.selAnchor (a : Anchor) (n : Count) : RowWord.Statement (.selAnchor a n) :=
  RowWord.fields_of_word n a 0x3
theorem RowWord.alignFp16 (a : Anchor) (n : Count) : RowWord.Statement (.alignFp16 a n) :=
  RowWord.fields_of_word n a 0x4
theorem RowWord.alignE4M3 (a : Anchor) (n : Count) : RowWord.Statement (.alignE4M3 a n) :=
  RowWord.fields_of_word n a 0x5
theorem RowWord.reduce (a : Anchor) (n : Count) : RowWord.Statement (.reduce a n) :=
  RowWord.fields_of_word n a 0x6
theorem RowWord.requantBf16 (a : Anchor) (n : Count) : RowWord.Statement (.requantBf16 a n) :=
  RowWord.fields_of_word n a 0x7
theorem RowWord.mac (a : Anchor) (n : Count) : RowWord.Statement (.mac a n) :=
  RowWord.fields_of_word n a 0x8

end Sys2Proof.Laws
end

