-- ==== Sys2Proof/Tests/Slice0.lean ====
section
/-! SUPPORT. The model's own tests: the well-formedness smoke test, decoding of words written out from the spec's encoding,
one step per test on values of 95_test_vectors.md, and a witness for the hypotheses of each statement that has any. -/

namespace Sys2Proof.Tests

open Sys2Proof Sys2Proof.Machine

/-- Right after reset, with a command offered on the pins and the block ready. -/
def offering (w : CmdWord) (o : Operands) : State :=
  { State.reset with inputs := ⟨true, true, w, o⟩, ready := true }

/-- The response that a step appended to the FIFO. -/
def lastResponse : Host.Outcome State Fault Refusal → Option Response
  | .next t => t.fifo.getLast?.map InFlight.response
  | .fault _ => none
  | .refused _ => none

/-- The response appended by the step that accepts a command with some operands. -/
def answer (w : CmdWord) (o : Operands) : Option Response := lastResponse (step (offering w o))

/-- A legal command's response with some data. -/
def data (d : RespData) : Option Response := some ⟨false, 0, d⟩

/-! ### Well-formedness: the one check, in each operation that makes it (30_encoding.md R48) -/

theorem test_wf_refuses_selAnchor_33 : (Instr.selAnchor 0 33).wellFormed = false := by decide
theorem test_wf_refuses_reduce_33 : (Instr.reduce 0 33).wellFormed = false := by decide
theorem test_wf_refuses_mac_63 : (Instr.mac 0 63).wellFormed = false := by decide
theorem test_wf_accepts_32 : (Instr.mac 0 32).wellFormed = true := by decide
theorem test_wf_accepts_unused_count : (Instr.mulFp16 0xFF 63).wellFormed = true := by decide

/-! ### Decoding of words written out as `RSV1 COUNT ANCHOR RSV0 OP` (30_encoding.md R47, R49) -/

theorem test_decode_widenFp16 : decode 0b00000000000001010000001100000000 = .ok (.widenFp16 3 5) := by decide
theorem test_decode_widenBf16 : decode 0b00000000000000001000000000000001 = .ok (.widenBf16 128 0) := by decide
theorem test_decode_mulFp16 : decode 0b00000000001111111111111100000010 = .ok (.mulFp16 255 63) := by decide
theorem test_decode_selAnchor : decode 0b00000000001000000000000000000011 = .ok (.selAnchor 0 32) := by decide
theorem test_decode_alignFp16 : decode 0b00000000000000000001011100000100 = .ok (.alignFp16 23 0) := by decide
theorem test_decode_alignE4M3 : decode 0b00000000000000000000111100000101 = .ok (.alignE4M3 15 0) := by decide
theorem test_decode_reduce : decode 0b00000000000000110000000000000110 = .ok (.reduce 0 3) := by decide
theorem test_decode_requantBf16 : decode 0b00000000000000000111111100000111 = .ok (.requantBf16 127 0) := by decide
theorem test_decode_mac : decode 0b00000000000000100000000000001000 = .ok (.mac 0 2) := by decide
theorem test_decode_op9 : decode 0x00000009 = .error .reservedOpcode := by decide
theorem test_decode_opF : decode 0x0000000F = .error .reservedOpcode := by decide
theorem test_decode_rsv0 : decode 0x00000010 = .error .reservedBits := by decide
theorem test_decode_rsv1_top : decode 0x80000007 = .error .reservedBits := by decide
theorem test_decode_rsv1_low : decode 0x00610006 = .error .reservedBits := by decide
theorem test_decode_priority : decode 0x00000019 = .error .reservedOpcode := by decide
theorem test_encode_mac : encode (.mac 5 33) = 0b00000000001000010000010100001000 := by decide
theorem test_decodeTableWord : decodeTableWord 32 0x00000307 = some (.requantBf16 3 0) := by decide
theorem test_fetch_word_is_run : lastResponse (step (State.reset.withFetchWord 32 0x00000002)) = data 0 := by decide

/-! ### One step each (95_test_vectors.md section 2) -/

theorem test_widenFp16_min_subnormal : answer 0x0 { Operands.zero with c8 := 0x01 } = data 0x1800 := by decide
theorem test_widenFp16_negative : answer 0x0 { Operands.zero with c8 := 0xFE } = data 0xDF00 := by decide
theorem test_widenBf16_max_subnormal : answer 0x1 { Operands.zero with c8 := 0x07 } = data 0x3C60 := by decide
theorem test_widenBf16_sentinel : answer 0x1 { Operands.zero with c8 := 0xFF } = data 0xFFC0 := by decide
theorem test_mulFp16_sticky : answer 0x2 { Operands.zero with a := 0x3C3F, b := 0x3FBF } = data 0x401D := by decide
theorem test_mulFp16_carry : answer 0x003FFF02 { Operands.zero with a := 0x3C01, b := 0x3FFE } = data 0x4000 := by decide
theorem test_selAnchor_three :
    answer 0x00030003 { Operands.zero with va := lanesOfList [0x3E00, 0x3800, 0xBE00], c8 := 0x38 } = data 3 := by decide
theorem test_selAnchor_clamped : answer 0x00010003 { Operands.zero with va := lanesOfList [0x1400] } = data 0 := by decide
theorem test_alignFp16_truncates_toward_zero :
    answer 0x00001704 { Operands.zero with a := 0xBC01 } = data 0xFFFFFF00 := by decide
theorem test_alignFp16_wraps : answer 0x00000004 { Operands.zero with a := 0x4200 } = data 0x80000000 := by decide
theorem test_alignE4M3_sentinel : answer 0x00000F05 { Operands.zero with c8 := 0xFF } = data 0xFE200000 := by decide
theorem test_alignE4M3_subnormal : answer 0x00000505 { Operands.zero with c8 := 0x07 } = data 0x000E0000 := by decide
theorem test_reduce_wraps_down :
    answer 0x00010006 { Operands.zero with vi := lanesOfList [0x80000000], s32 := 0xFFFFFFFF } = data 0x7FFFFFFF := by
  decide
theorem test_reduce_ignores_lanes_at_count :
    answer 0x00010006 { Operands.zero with vi := lanesOfList [5, 7, 9], s32 := 100 } = data 105 := by decide
theorem test_requantBf16_tie_to_even : answer 0x00001F07 { Operands.zero with s32 := 383 } = data 0x43C0 := by decide
theorem test_requantBf16_most_negative :
    answer 0x00001F07 { Operands.zero with s32 := 0x80000000 } = data 0xCF00 := by decide
theorem test_mac_of_P2 :
    answer 0x00030008
      { Operands.zero with
        va := lanesOfList [0x3C00, 0x4000, 0x3800]
        vb := lanesOfList [0x3E00, 0x3400, 0xC200]
        c8 := 0x38 } = data 0x3FC0 := by decide
theorem test_mac_sentinel_addend :
    answer 0x00010008 { Operands.zero with va := lanesOfList [0x3C00], vb := lanesOfList [0x3C00], c8 := 0xFF } =
      data 0xC3F0 := by decide
theorem test_count_out_of_range : answer 0x00210003 Operands.zero = some ⟨true, 3, 0⟩ := by decide
theorem test_reserved_bits_before_count : answer 0x00610006 Operands.zero = some ⟨true, 2, 0⟩ := by decide
theorem test_reserved_opcode : answer 0x00000019 Operands.zero = some ⟨true, 1, 0⟩ := by decide

theorem test_reset_step_discards :
    lastResponse (step { State.reset with
      inputs := { Inputs.idle with rstN := false }
      fifo := [⟨okResponse 7, 0⟩] }) = none := by decide
theorem test_idle_step_moves_on :
    lastResponse (step { State.reset with fifo := [⟨okResponse 7, 0⟩, ⟨okResponse 8, 3⟩] }) = data 8 := by decide

/-! ### Other instances (00_scope.md R9 to R11), and what a pattern denotes (40_format_decoder.md R59) -/

/-- The smallest legal instance, with other NaN mantissas. -/
def small : Params := ⟨1, 0x001, 0x7F, 4⟩

/-- The largest that the 6-bit `COUNT` admits. -/
def large : Params := ⟨63, 0x3FF, 0x01, 0⟩

/-- The response appended by an instance's step. -/
def answerOf (p : Params) (w : CmdWord) (o : Operands) : Option Response := lastResponse (stepWith p (offering w o))

theorem test_instances_legal : small.legal = true ∧ large.legal = true := by decide
theorem test_small_refuses_count_2 : answerOf small 0x00020006 Operands.zero = some ⟨true, 3, 0⟩ := by decide
theorem test_small_nan : answerOf small 0x0 { Operands.zero with c8 := 0xFF } = data 0xFC01 := by decide
theorem test_small_accepts_count_1 :
    answerOf small 0x00010006 { Operands.zero with vi := lanesOfList [5, 6], s32 := 100 } = data 105 := by decide
theorem test_large_accepts_count_63 : (Instr.mac 0 63).wellFormedFor large = true := by decide
theorem test_infinities_and_nan :
    valueFp16 0xFC00 = .infinity true ∧ valueBf16 0x7F80 = .infinity false ∧ valueFp16 0x7C01 = .notANumber ∧
      valueE4M3 0xFF = .notANumber := by decide

/-! ### Witnesses: the hypotheses of each statement that has any are met together -/

theorem witness_decoded_word : decode 0x00210008 = .ok (.mac 0 33) := by decide

theorem witness_step_runs :
    let s := offering 0x00210008 Operands.zero
    s.inputs.rstN = true ∧ s.inputs.reqValid = true ∧ s.ready = true ∧ decode s.inputs.cmd = .ok (.mac 0 33) := by decide

theorem witness_accepting_step : (offering 0xFFFFFFFF Operands.zero).handshake = true := by decide

theorem witness_same_request :
    let s := offering 0x00000002 Operands.zero
    let t : State := { s with fifo := [⟨okResponse 7, 3⟩] }
    s ≠ t ∧ s.handshake = true ∧ t.handshake = true ∧ s.inputs.cmd = t.inputs.cmd ∧
      s.inputs.operands = t.inputs.operands := by
  refine ⟨fun h => absurd (congrArg State.fifo h) (by decide), ?_⟩
  decide

/-- The four clauses at the ends of their ranges: opcodes 9 and 15; a reserved bit with opcodes 8 and 0; a count of 33; a
count of 32, and one of 63 that is not used. -/
theorem witness_illegal_clauses :
    let op : CmdWord → Nat := fun w => (w.extractLsb' 0 4).toNat
    let reserved : CmdWord → Bool := fun w => decide (w.extractLsb' 4 4 ≠ 0 ∨ w.extractLsb' 22 10 ≠ 0)
    let badCount : CmdWord → Bool := fun w =>
      decide ((op w = 3 ∨ op w = 6 ∨ op w = 8) ∧ Config.nmax < (w.extractLsb' 16 6).toNat)
    let offered : CmdWord → Bool := fun w => (offering w Operands.zero).handshake
    (offered 0x00000009 = true ∧ op 0x00000009 = 9) ∧ (offered 0xFFFFFFFF = true ∧ op 0xFFFFFFFF = 15) ∧
    (offered 0x00400008 = true ∧ op 0x00400008 = 8 ∧ reserved 0x00400008 = true) ∧
    (offered 0x00000080 = true ∧ op 0x00000080 = 0 ∧ reserved 0x00000080 = true) ∧
    (offered 0x00210008 = true ∧ op 0x00210008 = 8 ∧ reserved 0x00210008 = false ∧ badCount 0x00210008 = true) ∧
    (offered 0x00200008 = true ∧ op 0x00200008 = 8 ∧ reserved 0x00200008 = false ∧ badCount 0x00200008 = false) ∧
    (offered 0x003F0007 = true ∧ op 0x003F0007 = 7 ∧ reserved 0x003F0007 = false ∧ badCount 0x003F0007 = false) := by
  decide

theorem witness_well_formed : (Instr.reduce 0 32).wellFormed = true := by decide

theorem witness_count_out_of_range : Config.nmax < (33 : Count).toNat := by decide

theorem witness_accepted_command : ∃ t : State, exec (.mac 0 32) (offering 0x00200008 Operands.zero) = .next t :=
  ⟨_, rfl⟩

theorem witness_no_acceptance :
    let s : State := { State.reset with fifo := [⟨okResponse 7, 0⟩, ⟨okResponse 8, 3⟩] }
    s.inputs.rstN = true ∧ s.handshake = false := by decide

theorem witness_unread_operands :
    let o : Operands := { Operands.zero with vi := lanesOfList [5, 6] }
    let p : Operands := { Operands.zero with vi := lanesOfList [5, 7], c8 := 1 }
    o ≠ p ∧ AgreeOnRead (.reduce 0 1) o p := by
  refine ⟨by decide, fun k hk => ?_, rfl⟩
  have h0 : k = 0 := Nat.lt_one_iff.1 hk
  subst h0
  decide

theorem witness_unused_fields : SameUsedFields (.reduce 7 2) (.reduce 9 2) := by
  refine ⟨rfl, fun h => ?_, fun _ => rfl⟩
  simp [usesAnchor] at h

theorem witness_invariant :
    (offering 0x00000002 Operands.zero).Inv ∧ ∃ t : State, step (offering 0x00000002 Operands.zero) = .next t := by
  refine ⟨⟨Nat.zero_le _, fun _ => Nat.succ_pos _, ?_⟩, _, rfl⟩
  intro e he
  exact absurd he List.not_mem_nil

theorem witness_run :
    let cycles : List Inputs := [⟨true, true, 0x00000002, Operands.zero⟩]
    (∀ i ∈ cycles, i.rstN = true) ∧ ∃ t : State, runCycles cycles (offering 0 Operands.zero) = .next t :=
  ⟨by decide, _, rfl⟩

theorem witness_held_request :
    let input : Nat → Inputs := fun _ => ⟨true, true, 0x00000002, Operands.zero⟩
    ∀ k, (input k).rstN = true ∧ (input k).reqValid = true := fun _ => ⟨rfl, rfl⟩

theorem witness_in_flight :
    let input : Nat → Inputs := fun _ => Inputs.idle
    let s : State := { State.reset with fifo := [⟨okResponse 7, 2⟩, ⟨okResponse 8, 0⟩, ⟨okResponse 9, 5⟩] }
    (∀ k, (input k).rstN = true) ∧ s.fifo = [⟨okResponse 7, 2⟩] ++ ⟨okResponse 8, 0⟩ :: [⟨okResponse 9, 5⟩] :=
  ⟨fun _ => rfl, rfl⟩

theorem witness_presented :
    let s : State := { State.reset with fifo := [⟨okResponse 7, 0⟩] }
    s.inputs.rstN = true ∧ s.fifo = ⟨okResponse 7, 0⟩ :: [] ∧ (⟨okResponse 7, 0⟩ : InFlight).wait = 0 := by decide

theorem witness_in_reset :
    let s : State := { State.reset with inputs := { Inputs.idle with rstN := false }, fifo := [⟨okResponse 7, 0⟩] }
    s.inputs.rstN = false := by decide

/-- Each class of each format at the ends of its patterns. -/
theorem witness_classes :
    (classE4M3 0x80 = .zero ∧ classE4M3 0x07 = .subnormal ∧ classE4M3 0x08 = .normal ∧ classE4M3 0xFE = .normal ∧
      classE4M3 0xFF = .nan) ∧
    (classFp16 0x8000 = .zero ∧ classFp16 0x03FF = .subnormal ∧ classFp16 0x0400 = .normal ∧ classFp16 0xFBFF = .normal ∧
      classFp16 0xFC00 = .inf ∧ classFp16 0x7C01 = .nan) ∧
    (classBf16 0x8000 = .zero ∧ classBf16 0x007F = .subnormal ∧ classBf16 0x0080 = .normal ∧ classBf16 0xFF7F = .normal ∧
      classBf16 0xFF80 = .inf ∧ classBf16 0x7F81 = .nan) := by decide

theorem witness_packed_bus : (63 ≤ Config.laneBound ∧ 62 < 63 ∧ 15 < 16) ∧ 63 ≤ Config.laneBound ∧ 0 < 63 ∧ 31 < 32 := by
  decide

theorem witness_legal_instance :
    small.legal = true ∧ (1 : Count).toNat ≤ small.nmax ∧ (0 : Count).toNat ≤ small.nmax := by decide

theorem witness_lane_below_count : (63 : Count).toNat ≤ large.nmax ∧ 62 < (63 : Count).toNat := by decide

/-- A count in range, one above the range, and an operation that uses none. -/
theorem witness_count_of_instance :
    ((Instr.reduce 0 63).usesCount = true ∧ (63 : Count).toNat ≤ large.nmax) ∧
      ((Instr.mac 0 2).usesCount = true ∧ small.nmax < (2 : Count).toNat) ∧
      (Instr.mulFp16 0 63).usesCount = false := by decide

/-- Lanes that differ from the instance's number of lanes on. -/
theorem witness_lanes_from_nmax :
    let s := offering 0x00010006 { Operands.zero with vi := lanesOfList [5, 6] }
    let t := offering 0x00010006 { Operands.zero with vi := lanesOfList [5, 7] }
    s.inputs.operands ≠ t.inputs.operands ∧ s.handshake = true ∧ t.handshake = true ∧ s.inputs.cmd = t.inputs.cmd ∧
      s.inputs.operands.a = t.inputs.operands.a ∧ s.inputs.operands.b = t.inputs.operands.b ∧
      s.inputs.operands.c8 = t.inputs.operands.c8 ∧ s.inputs.operands.s32 = t.inputs.operands.s32 ∧
      ∀ k : Nat, k < small.nmax → s.inputs.operands.va[k]? = t.inputs.operands.va[k]? ∧
        s.inputs.operands.vb[k]? = t.inputs.operands.vb[k]? ∧ s.inputs.operands.vi[k]? = t.inputs.operands.vi[k]? := by
  refine ⟨by decide, rfl, rfl, rfl, rfl, rfl, rfl, rfl, fun k hk => ?_⟩
  have h0 : k = 0 := Nat.lt_one_iff.1 hk
  subst h0
  decide

theorem witness_widening : (offering 0 { Operands.zero with c8 := 0x87 }).inputs.operands.c8 ≠ 0xFF := by decide

theorem witness_sentinel : (offering 0 { Operands.zero with c8 := 0xFF }).inputs.operands.c8 = 0xFF := by decide

theorem witness_nan_mantissas : (0x001 : BitVec 10) ≠ 0 ∧ (0x7F : BitVec 7) ≠ 0 := by decide

theorem witness_mul_zero_rule :
    let o := (offering 0x2 { Operands.zero with a := 0x03FF, b := 0x7E00 }).inputs.operands
    (decFp16 o.a).ef = 0 ∨ (decFp16 o.b).ef = 0 := by decide

/-- The least product that is not flushed, `63 × 2^-13` times `65 × 2^-13`: it is in the clause of rounding. -/
theorem witness_mul_least_kept :
    let o := (offering 0x2 { Operands.zero with a := 0x1FE0, b := 0x2010 }).inputs.operands
    (decFp16 o.a).ef ≠ 0 ∧ (decFp16 o.b).ef ≠ 0 ∧ |literalFp16 o.a * literalFp16 o.b| = (1 - 1 / 2 ^ 12) / 2 ^ 14 := by
  have h1 : decFp16 0x1FE0 = ⟨false, 7, 992⟩ := by decide
  have h2 : decFp16 0x2010 = ⟨false, 8, 16⟩ := by decide
  show (decFp16 0x1FE0).ef ≠ 0 ∧ (decFp16 0x2010).ef ≠ 0 ∧ |literalFp16 0x1FE0 * literalFp16 0x2010| = (1 - 1 / 2 ^ 12) / 2 ^ 14
  refine ⟨by rw [h1]; decide, by rw [h2]; decide, ?_⟩
  norm_num [literalFp16, literalValue, significand, unbiasedExp, fp16Format, h1, h2, abs_of_pos]

/-- `2^-14` times a half, below it: it is in the clause of flushing. -/
theorem witness_mul_flushed :
    let o := (offering 0x2 { Operands.zero with a := 0x0400, b := 0x3800 }).inputs.operands
    (decFp16 o.a).ef ≠ 0 ∧ (decFp16 o.b).ef ≠ 0 ∧ |literalFp16 o.a * literalFp16 o.b| < (1 - 1 / 2 ^ 12) / 2 ^ 14 := by
  have h1 : decFp16 0x0400 = ⟨false, 1, 0⟩ := by decide
  have h2 : decFp16 0x3800 = ⟨false, 14, 0⟩ := by decide
  show (decFp16 0x0400).ef ≠ 0 ∧ (decFp16 0x3800).ef ≠ 0 ∧ |literalFp16 0x0400 * literalFp16 0x3800| < (1 - 1 / 2 ^ 12) / 2 ^ 14
  refine ⟨by rw [h1]; decide, by rw [h2]; decide, ?_⟩
  norm_num [literalFp16, literalValue, significand, unbiasedExp, fp16Format, h1, h2, abs_of_pos]

/-- The least product that saturates, `63 × 1040`. -/
theorem witness_mul_least_infinite :
    let o := (offering 0x2 { Operands.zero with a := 0x53E0, b := 0x6410 }).inputs.operands
    (decFp16 o.a).ef ≠ 0 ∧ (decFp16 o.b).ef ≠ 0 ∧ |literalFp16 o.a * literalFp16 o.b| = 65520 := by
  have h1 : decFp16 0x53E0 = ⟨false, 20, 992⟩ := by decide
  have h2 : decFp16 0x6410 = ⟨false, 25, 16⟩ := by decide
  show (decFp16 0x53E0).ef ≠ 0 ∧ (decFp16 0x6410).ef ≠ 0 ∧ |literalFp16 0x53E0 * literalFp16 0x6410| = 65520
  refine ⟨by rw [h1]; decide, by rw [h2]; decide, ?_⟩
  norm_num [literalFp16, literalValue, significand, unbiasedExp, fp16Format, h1, h2, abs_of_pos]

theorem witness_count_in_range : (32 : Count).toNat ≤ Config.nmax ∧ (0 : Count).toNat ≤ Config.nmax := by decide

theorem witness_batch : (List.replicate 63 (0x7C00 : Fp16)).length ≤ Config.laneBound := by decide

/-- The greatest fp16 value below 1 and the greatest e4m3 value below 1, at anchor 0. -/
theorem witness_align_in_frame :
    frameUnits (literalFp16 0x3BFF) 0 < 2 ^ 31 ∧ frameUnits (literalE4M3 0x37) 0 < 2 ^ 31 := by
  have h1 : decFp16 0x3BFF = ⟨false, 14, 1023⟩ := by decide
  have h2 : decE4M3 0x37 = ⟨false, 6, 7⟩ := by decide
  constructor
  · norm_num [frameUnits, literalFp16, literalValue, significand, unbiasedExp, fp16Format, h1, abs_of_pos]
  · norm_num [frameUnits, literalE4M3, literalValue, significand, unbiasedExp, e4m3Format, h2, abs_of_pos]

/-- Shifts of 32 and -32, and a zero, of each format. -/
theorem witness_align_outside :
    (let u := decFp16 0x3C00; (32 : Int) ≤ 10 + (53 : Anchor).toNat - 31 - ((u.ef : Int) - 15)) ∧
    (let u := decFp16 0x6800; 10 + (0 : Anchor).toNat - 31 - ((u.ef : Int) - 15) < -31) ∧
    ((decFp16 0x8000).ef = 0 ∧ (decFp16 0x8000).mf = 0) ∧
    (let v := decE4M3 0x38; (32 : Int) ≤ 3 + (60 : Anchor).toNat - 31 - ((v.ef : Int) - 7)) ∧
    (let v := decE4M3 0x58; 3 + (0 : Anchor).toNat - 31 - ((v.ef : Int) - 7) < -31) ∧
    ((decE4M3 0x80).ef = 0 ∧ (decE4M3 0x80).mf = 0) := by decide

/-- Shifts of -31 and -1 of each format. -/
theorem witness_align_left_shift :
    (let u := decFp16 0x6400; 10 + ((0 : Anchor).toNat : Int) - 31 - ((u.ef : Int) - 15) = -31) ∧
    (let u := decFp16 0x3C00; 10 + ((20 : Anchor).toNat : Int) - 31 - ((u.ef : Int) - 15) = -1) ∧
    (let v := decE4M3 0x50; 3 + ((0 : Anchor).toNat : Int) - 31 - ((v.ef : Int) - 7) = -31) ∧
    (let v := decE4M3 0x38; 3 + ((27 : Anchor).toNat : Int) - 31 - ((v.ef : Int) - 7) = -1) := by decide

theorem witness_below_a_quarter : |literalFp16 0x33FF| < 1 / 4 ∧ |literalE4M3 0x27| < 1 / 4 := by
  have h1 : decFp16 0x33FF = ⟨false, 12, 1023⟩ := by decide
  have h2 : decE4M3 0x27 = ⟨false, 4, 7⟩ := by decide
  constructor
  · norm_num [literalFp16, literalValue, significand, unbiasedExp, fp16Format, h1, abs_of_pos]
  · norm_num [literalE4M3, literalValue, significand, unbiasedExp, e4m3Format, h2, abs_of_pos]

theorem witness_permuted_terms :
    let s := offering 0 { Operands.zero with vi := lanesOfList [5, 6, 1] }
    let t := offering 0 { Operands.zero with vi := lanesOfList [6, 5, 2] }
    (2 : Count).toNat ≤ Config.nmax ∧
      (s.inputs.operands.vi.toList.take 2).Perm (t.inputs.operands.vi.toList.take 2) ∧
      s.inputs.operands.s32 = t.inputs.operands.s32 := by
  refine ⟨by decide, ?_, rfl⟩
  exact List.Perm.swap _ _ _

theorem witness_requant_of_zero : (offering 0 Operands.zero).inputs.operands.s32 = 0 := by decide

/-- The least sum that saturates, and the greatest that does not, at anchor 128. -/
theorem witness_requant_overflow_boundary :
    ((0x7FC00000 : Fxp) ≠ 0 ∧ |frameValue 0x7FC00000 128| = 2 ^ 128 - 2 ^ 119) ∧
      (0x7FBFFFFF : Fxp) ≠ 0 ∧ |frameValue 0x7FBFFFFF 128| < 2 ^ 128 - 2 ^ 119 := by
  have h1 : (0x7FC00000 : Fxp).toInt = 2143289344 := by decide
  have h2 : (0x7FBFFFFF : Fxp).toInt = 2143289343 := by decide
  have h3 : (128 : Anchor).toNat = 128 := by decide
  refine ⟨⟨by decide, ?_⟩, by decide, ?_⟩
  · norm_num [frameValue, h1, h3, abs_of_pos]
  · norm_num [frameValue, h2, h3, abs_of_pos]

theorem witness_representable_sum : classBf16 0x437F = .normal ∧ frameValue 255 31 = literalBf16 0x437F := by
  have h1 : decBf16 0x437F = ⟨false, 134, 127⟩ := by decide
  have h2 : (255 : Fxp).toInt = 255 := by decide
  have h3 : (31 : Anchor).toNat = 31 := by decide
  refine ⟨by decide, ?_⟩
  norm_num [frameValue, literalBf16, literalValue, significand, unbiasedExp, bf16Format, h1, h2, h3]

theorem witness_another_anchor :
    classBf16 (requantBf16 0x40000000 0) ≠ .inf ∧ classBf16 (requantBf16 0x40000000 128) ≠ .inf := by decide

theorem witness_permuted_pairs :
    let s := offering 0 { Operands.zero with va := lanesOfList [5, 6], vb := lanesOfList [7, 8] }
    let t := offering 0 { Operands.zero with va := lanesOfList [6, 5], vb := lanesOfList [8, 7] }
    (2 : Count).toNat ≤ Config.nmax ∧
      ((s.inputs.operands.va.toList.take 2).zip (s.inputs.operands.vb.toList.take 2)).Perm
        ((t.inputs.operands.va.toList.take 2).zip (t.inputs.operands.vb.toList.take 2)) ∧
      s.inputs.operands.c8 = t.inputs.operands.c8 := by
  refine ⟨by decide, ?_, rfl⟩
  exact List.Perm.swap _ _ _

theorem witness_e4m3_batch :
    ([0x40, 0x44, 0xB8] : List E4M3).length = ([0x44, 0x30, 0x3A] : List E4M3).length ∧
      ([0x40, 0x44, 0xB8] : List E4M3).length ≤ Config.nmax := by decide

end Sys2Proof.Tests
end

section
/-! The decoder, inverted: what a word's fields are when it decodes, and which check it fails when it does not
(30_encoding.md R47 to R50, 60_exceptions.md R115). -/

namespace Sys2Proof

/-- The opcode map answers an operation only for its own number, with the fields it was given (30_encoding.md R49). -/
theorem instrOfOp_eq_some {op : BitVec 4} {a : Anchor} {n : Count} {i : Instr} (h : instrOfOp op a n = some i) :
    op = opcode i ∧ a = i.anchor ∧ n = i.count := by
  unfold instrOfOp at h
  split at h <;> cases h <;> exact ⟨BitVec.eq_of_toNat_eq ‹_›, rfl, rfl⟩

/-- The reserved numbers are those from 9 on (30_encoding.md R50). -/
theorem instrOfOp_eq_none {op : BitVec 4} {a : Anchor} {n : Count} (h : instrOfOp op a n = none) : 9 ≤ op.toNat := by
  by_contra hlt
  rw [Nat.not_le] at hlt
  unfold instrOfOp at h
  generalize op.toNat = k at h hlt
  interval_cases k <;> cases h

theorem opcode_lt_nine (i : Instr) : (opcode i).toNat < 9 := by cases i <;> simp [opcode]

/-- A word that decodes has the number and the fields of its command, and zeros in the reserved bits. -/
theorem decode_eq_ok {w : CmdWord} {i : Instr} (h : decode w = .ok i) :
    opField w = opcode i ∧ anchorField w = i.anchor ∧ countField w = i.count ∧ rsv0Field w = 0 ∧ rsv1Field w = 0 := by
  unfold decode at h
  split at h
  · cases h
  · split at h
    · cases h
      obtain ⟨hop, ha, hn⟩ := instrOfOp_eq_some ‹_›
      exact ⟨hop, ha, hn, ‹_›⟩
    · cases h

/-- A word that does not decode has a reserved number, or a legal one and reserved bits that are not zero. -/
theorem decode_eq_error {w : CmdWord} {e : CommandError} (h : decode w = .error e) :
    (e = .reservedOpcode ∧ 9 ≤ (opField w).toNat) ∨
      (e = .reservedBits ∧ (opField w).toNat < 9 ∧ (rsv0Field w ≠ 0 ∨ rsv1Field w ≠ 0)) := by
  unfold decode at h
  split at h
  · cases h
    exact .inl ⟨rfl, instrOfOp_eq_none ‹_›⟩
  · split at h
    · cases h
    · cases h
      obtain ⟨hop, -, -⟩ := instrOfOp_eq_some ‹_›
      exact .inr ⟨rfl, hop ▸ opcode_lt_nine _, not_and_or.1 ‹_›⟩

end Sys2Proof
end

section
/-! A step that accepts a request: the machine against the pure function of Machine/Respond.lean. -/

namespace Sys2Proof.Machine

theorem opUsesCount_opcode (i : Instr) : opUsesCount (opcode i).toNat = i.usesCount := by cases i <;> rfl

/-- The table of causes on a word that decodes: only the count can fail (60_exceptions.md R115). -/
theorem commandCause_of_decode_ok (p : Params) {w : CmdWord} {i : Instr} (h : decode w = .ok i) :
    commandCause p w = if i.wellFormedFor p then none else some .countOutOfRange := by
  obtain ⟨hop, -, hn, h0, h1⟩ := decode_eq_ok h
  have hlt := opcode_lt_nine i
  unfold commandCause Instr.wellFormedFor
  rw [hop, hn, h0, h1, opUsesCount_opcode, if_neg (by omega), if_neg (by simp)]
  cases i.usesCount with
  | false => rfl
  | true => by_cases hc : i.count.toNat ≤ p.nmax <;> simp [hc, Nat.not_lt.2, Nat.lt_of_not_le]

/-- The table of causes on a word that does not decode: the decoder's own error. -/
theorem commandCause_of_decode_error (p : Params) {w : CmdWord} {e : CommandError} (h : decode w = .error e) :
    commandCause p w = some e := by
  unfold commandCause
  rcases decode_eq_error h with ⟨rfl, hop⟩ | ⟨rfl, hop, hrsv⟩
  · rw [if_pos hop]
  · rw [if_neg (by omega), if_pos hrsv]

/-- Every operation's meaning in one line: the count check, where there is one, and the result of the opcode map
(30_encoding.md R49). -/
theorem execWith_eq_acceptCounted (p : Params) (i : Instr) (s : State) :
    execWith p i s = .next (s.acceptCounted p (i.wellFormedFor p)
      (resultOf p (opcode i).toNat i.anchor i.count s.inputs.operands)) := by
  cases i <;> rfl

/-- An operation appends the response of the pure function to any word that decodes to it. -/
theorem execWith_eq_respondWith (p : Params) (s : State) {w : CmdWord} {i : Instr} (h : decode w = .ok i) :
    execWith p i s = .next (s.acceptWith p (respondWith p w s.inputs.operands)) := by
  obtain ⟨hop, ha, hn, -, -⟩ := decode_eq_ok h
  rw [execWith_eq_acceptCounted, respondWith, commandCause_of_decode_ok p h, hop, ha, hn]
  cases i.wellFormedFor p <;> rfl

theorem stepWith_of_decode_ok (p : Params) (s : State) {i : Instr} (hs : s.handshake = true)
    (hd : decode s.inputs.cmd = .ok i) : stepWith p s = execWith p i s := by
  obtain ⟨hr, -, -⟩ := s.handshake_iff.1 hs
  simp only [stepWith, cycleOf, hr, s.sampled_of_handshake hs, hd]

theorem stepWith_of_decode_error (p : Params) (s : State) {e : CommandError} (hs : s.handshake = true)
    (hd : decode s.inputs.cmd = .error e) : stepWith p s = .next (s.illegalWith p e) := by
  obtain ⟨hr, -, -⟩ := s.handshake_iff.1 hs
  simp only [stepWith, cycleOf, hr, s.sampled_of_handshake hs, hd]

/-- Settles O19: the decoder's two outcomes against the table of causes. -/
theorem everyInstanceAppendsItsResponse : Obligations.EveryInstanceAppendsItsResponse := by
  intro p s hs
  cases hd : decode s.inputs.cmd with
  | ok i => rw [stepWith_of_decode_ok p s hs hd, execWith_eq_respondWith p s hd]
  | error e =>
    rw [stepWith_of_decode_error p s hs hd, respondWith, commandCause_of_decode_error p hd]
    rfl

/-- Settles O6: O19 with the default parameters. -/
theorem acceptingStepAppendsTheBlockResponse : Obligations.AcceptingStepAppendsTheBlockResponse := fun s hs =>
  (step_eq_stepWith s).trans (everyInstanceAppendsItsResponse Config.block s hs)

/-- Settles O5: an accepted word is decoded, and its command run. -/
theorem stepRunsTheDecodedCommand : Obligations.StepRunsTheDecodedCommand := by
  intro s i hr hv hready hd
  have hs : s.handshake = true := s.handshake_iff.2 ⟨hr, hv, hready⟩
  rw [step_eq_stepWith, exec_eq_execWith, stepWith_of_decode_ok Config.block s hs hd]

/-- Settles O18: the parameters by computation, the two functions by the laws of `exec` and `step`. -/
theorem machineIsTheInstanceOfTheDefaults : Obligations.MachineIsTheInstanceOfTheDefaults :=
  ⟨rfl, rfl, rfl, by decide, fun s => ⟨step_eq_stepWith s, fun i => exec_eq_execWith i s⟩⟩

end Sys2Proof.Machine
end

section
/-! Which lanes a response depends on (10_state.md R20, 30_encoding.md R51). -/

namespace Sys2Proof.Machine

/-- The lanes an operation uses are determined by those below `COUNT`. -/
theorem lanesUsed_congr {w : Nat} {u v : Vector (BitVec w) Config.laneBound} {n : Count}
    (h : ∀ k : Nat, k < n.toNat → u[k]? = v[k]?) : lanesUsed u n = lanesUsed v n := by
  refine List.ext_getElem? fun k => ?_
  by_cases hk : k < n.toNat
  · simpa [lanesUsed, countOperand, List.getElem?_take, hk] using h k hk
  · simp [lanesUsed, countOperand, hk]

/-- A legal command's count, where it is used, is at most `NMAX` (60_exceptions.md R115). -/
theorem count_le_of_commandCause_none {p : Params} {w : CmdWord} (h : commandCause p w = none)
    (hu : opUsesCount (opField w).toNat = true) : (countField w).toNat ≤ p.nmax := by
  unfold commandCause at h
  split at h
  · cases h
  · split at h
    · cases h
    · split at h
      · cases h
      next hcount => exact Nat.not_lt.1 fun hlt => hcount ⟨hu, hlt⟩

/-- A result depends on the scalar buses and, for an operation that uses `COUNT`, on the lanes below it. -/
theorem resultOf_congr (p : Params) (op : Nat) (a : Anchor) (n : Count) {o q : Operands}
    (ha : o.a = q.a) (hb : o.b = q.b) (hc : o.c8 = q.c8) (hs : o.s32 = q.s32)
    (hl : opUsesCount op = true →
      lanesUsed o.va n = lanesUsed q.va n ∧ lanesUsed o.vb n = lanesUsed q.vb n ∧ lanesUsed o.vi n = lanesUsed q.vi n) :
    resultOf p op a n o = resultOf p op a n q := by
  unfold resultOf
  split
  case h_4 | h_7 | h_9 =>
    obtain ⟨hva, hvb, hvi⟩ := hl rfl
    simp only [hva, hvb, hvi, hc, hs]
  all_goals simp only [ha, hb, hc, hs]

/-- Settles O21: an illegal command's response depends on no operand, and a legal one counts no lane from `NMAX` on. -/
theorem lanesFromNmaxOnDoNotChangeTheResponse : Obligations.LanesFromNmaxOnDoNotChangeTheResponse := by
  intro p s t hs ht hw o q ha hb hc h32 hl
  have same : respondWith p s.inputs.cmd o = respondWith p s.inputs.cmd q := by
    unfold respondWith
    cases hcause : commandCause p s.inputs.cmd with
    | some e => rfl
    | none =>
      refine congrArg okResponse (resultOf_congr p _ _ _ ha hb hc h32 fun hu => ?_)
      have hn := count_le_of_commandCause_none hcause hu
      exact ⟨lanesUsed_congr fun k hk => (hl k (hk.trans_le hn)).1,
        lanesUsed_congr fun k hk => (hl k (hk.trans_le hn)).2.1,
        lanesUsed_congr fun k hk => (hl k (hk.trans_le hn)).2.2⟩
  refine ⟨respondWith p s.inputs.cmd o, everyInstanceAppendsItsResponse p s hs, ?_⟩
  rw [same, hw]
  exact everyInstanceAppendsItsResponse p t ht

end Sys2Proof.Machine
end

section
/-! The invariant of the FIFO and of readiness (10_state.md R27, R28, R30). -/

namespace Sys2Proof.Machine

theorem fifoDepth_pos : 0 < Config.fifoDepth := Nat.succ_pos _

theorem inv_of_fifo_nil {s : State} (h : s.fifo = []) : s.Inv := by
  simp [State.Inv, h, fifoDepth_pos]

/-- A clock cycle keeps the invariant if what joins the FIFO is well formed and has room in it. -/
theorem clock_inv {s : State} {entering : List InFlight}
    (hroom : s.fifo.length + entering.length ≤ Config.fifoDepth)
    (hold : ∀ e ∈ s.fifo, e.response.wf = true) (hnew : ∀ e ∈ entering, e.response.wf = true) :
    (s.clock entering).Inv := by
  have hle := retire_length_le s.fifo
  refine ⟨?_, ?_, ?_⟩
  · rw [State.clock_fifo, List.length_append]
    omega
  · intro hready
    rw [State.clock_ready, Bool.and_eq_true, decide_eq_true_eq] at hready
    exact hready.2
  · intro e he
    rw [State.clock_fifo, List.mem_append] at he
    rcases he with he | he
    · obtain ⟨d, hd, hde⟩ := response_mem_of_mem_retire he
      exact hde ▸ hold d hd
    · exact hnew e he

theorem idle_inv {s : State} (h : s.Inv) : s.idle.Inv := by
  obtain ⟨hlen, -, hold⟩ := h
  exact clock_inv (by simpa using hlen) hold (by simp)

/-- Acceptance keeps the invariant: the block is ready, so there is room (10_state.md R26, R27). -/
theorem accept_inv {s : State} {r : Response} (h : s.Inv) (hs : s.handshake = true) (hr : r.wf = true) :
    (s.accept r).Inv := by
  obtain ⟨-, -, hready⟩ := s.handshake_iff.1 hs
  obtain ⟨-, hroom, hold⟩ := h
  exact clock_inv (hroom hready) hold (by simpa using hr)

/-- Settles O23, by the three things a step can do. -/
theorem everyStepKeepsTheInvariant : Obligations.EveryStepKeepsTheInvariant := by
  intro s t h hstep
  rcases step_cases hstep with ⟨-, rfl⟩ | ⟨-, -, rfl⟩ | ⟨hs, r, hr, rfl⟩
  · exact inv_of_fifo_nil s.resetCycle_fifo
  · exact idle_inv h
  · exact accept_inv h hs hr

@[simp] theorem reset_fifo : State.reset.fifo = [] := rfl

/-- Settles O24: driving the pins leaves the FIFO empty. -/
theorem resetStateHasTheInvariant : Obligations.ResetStateHasTheInvariant := fun inputs =>
  inv_of_fifo_nil ((State.reset.drive_fifo inputs).trans reset_fifo)

theorem presented_of_fifo_nil {s : State} (h : s.fifo = []) : s.presented = none := by
  unfold State.presented
  rw [h]
  cases s.inputs.rstN <;> rfl

theorem reqReady_of_reset {s : State} (h : s.inputs.rstN = false) : s.reqReady = false := by
  simp [State.reqReady, h]

/-- Settles O30: an empty FIFO presents nothing, and `rst_n = 0` holds `req_ready` low. -/
theorem resetStateHasNothingInFlight : Obligations.ResetStateHasNothingInFlight := by
  refine ⟨reset_fifo, fun inputs => ⟨?_, fun hr => reqReady_of_reset hr⟩⟩
  have hp : (State.reset.drive inputs).presented = none := presented_of_fifo_nil reset_fifo
  rw [State.respValid, hp, Option.isSome_none]

end Sys2Proof.Machine
end

section
/-! Cycles without reset: order, exactly-once delivery, and acceptance of a held request (10_state.md R26 to R28). -/

namespace Sys2Proof.Machine

theorem step_of_no_handshake {s : State} (hr : s.inputs.rstN = true) (hs : s.handshake = false) :
    step s = .next s.idle := by
  simp only [step, cycleOf, hr, s.sampled_of_no_handshake hs]

/-- Settles O13: such a cycle is an idle one. -/
theorem cycleWithoutAcceptanceAppendsNothing : Obligations.CycleWithoutAcceptanceAppendsNothing := fun s hr hs =>
  ⟨s.idle, step_of_no_handshake hr hs, s.idle_inputs, s.idle_fifo.trans (retire_eq_survivors _)⟩

/-- In a cycle without reset the FIFO gains exactly the responses of the requests accepted in it. -/
theorem step_fifo_responses {s t : State} (hr : s.inputs.rstN = true) (h : step s = .next t) :
    t.fifo.map InFlight.response =
      (retire s.fifo).map InFlight.response ++ s.acceptedNow.map Request.response := by
  cases hs : s.handshake with
  | false =>
    cases (step_of_no_handshake hr hs).symm.trans h
    simp [State.acceptedNow, s.sampled_of_no_handshake hs]
  | true =>
    cases (acceptingStepAppendsTheBlockResponse s hs).symm.trans h
    simp [State.acceptedNow, s.sampled_of_handshake hs, Request.response]

/-- One cycle of O25: what is presented and what is then in flight are what was in flight and what is accepted. -/
theorem presented_append_step_fifo {s t : State} (hr : s.inputs.rstN = true) (h : step s = .next t) :
    s.presented.toList ++ t.fifo.map InFlight.response =
      s.fifo.map InFlight.response ++ s.acceptedNow.map Request.response := by
  rw [step_fifo_responses hr h, ← List.append_assoc, presented_append_retire s hr]

/-- A run over at least one cycle is a step and a run from the state it leads to. -/
theorem runCycles_cons {i : Inputs} {rest : List Inputs} {s t : State} (h : runCycles (i :: rest) s = .next t) :
    ∃ u : State, step (s.drive i) = .next u ∧ runCycles rest u = .next t := by
  cases hu : step (s.drive i) with
  | next u => exact ⟨u, rfl, by simpa only [runCycles, hu] using h⟩
  | fault f => cases f
  | refused r => simp only [runCycles, hu, reduceCtorEq] at h

/-- Settles O25, by induction on the cycles. -/
theorem responsesLeaveInAcceptanceOrderExactlyOnce : Obligations.ResponsesLeaveInAcceptanceOrderExactlyOnce := by
  intro cycles
  induction cycles with
  | nil =>
    intro s t _ h
    cases h
    simp [deliveredIn, acceptedIn]
  | cons i rest ih =>
    intro s t hr h
    obtain ⟨u, hstep, hrun⟩ := runCycles_cons h
    have hrest := ih u t (fun j hj => hr j (List.mem_cons_of_mem _ hj)) hrun
    have hone := presented_append_step_fifo (s := s.drive i) (hr i List.mem_cons_self) hstep
    rw [State.drive_fifo] at hone
    simp only [deliveredIn, acceptedIn, hstep, List.map_append]
    rw [List.append_assoc, hrest, ← List.append_assoc, hone, List.append_assoc]

/-- For how many cycles at most the FIFO holds an entry if none joins it: each entry's wait and its own cycle of
presentation. -/
def drainTime (fifo : List InFlight) : Nat := (fifo.map fun e => e.wait + 1).sum

theorem drainTime_map_tick_le (fifo : List InFlight) : drainTime (fifo.map InFlight.tick) ≤ drainTime fifo := by
  induction fifo with
  | nil => exact le_rfl
  | cons e es ih =>
    simp only [drainTime, List.map_cons, List.sum_cons, InFlight.tick_wait] at ih ⊢
    omega

/-- A cycle brings a FIFO that is not empty nearer to being so. -/
theorem drainTime_retire_lt {fifo : List InFlight} (h : fifo ≠ []) : drainTime (retire fifo) < drainTime fifo := by
  cases fifo with
  | nil => exact absurd rfl h
  | cons e es =>
    have hle := drainTime_map_tick_le es
    by_cases he : e.wait = 0
    · rw [retire_cons_due e es he]
      simp only [drainTime, List.map_cons, List.sum_cons] at hle ⊢
      omega
    · rw [retire_cons_waiting e es he]
      simp only [drainTime, List.map_cons, List.sum_cons, InFlight.tick_wait] at hle ⊢
      omega

/-- A bound on the cycles until a block that is not ready is: those for which `req_ready` stays low still, and those
until the FIFO is empty (logs 4 to 6). -/
def readyBound (s : State) : Nat := s.stall + drainTime s.fifo

/-- A cycle in which the block is not ready makes it ready, or brings it nearer to being so. -/
theorem idle_ready_or_readyBound_lt {s : State} (h : s.ready = false) :
    s.idle.ready = true ∨ readyBound s.idle < readyBound s := by
  have hstall : s.idle.stall = s.stall - 1 := by simp [h]
  cases hf : s.fifo with
  | nil =>
    by_cases h0 : s.idle.stall = 0
    · exact .inl (by rw [State.idle_ready, h0, State.idle_fifo, hf]; simp [fifoDepth_pos])
    · refine .inr ?_
      simp only [readyBound, State.idle_fifo, hf, retire_nil]
      omega
  | cons e es =>
    have hdrain := drainTime_retire_lt (List.cons_ne_nil e es)
    refine .inr ?_
    simp only [readyBound, State.idle_fifo, hf]
    omega

/-- A run over the first cycles of a sequence of inputs, its first cycle taken apart. -/
theorem runCycles_range_succ (input : Nat → Inputs) (n : Nat) {s u : State} (h : step (s.drive (input 0)) = .next u) :
    runCycles ((List.range (n + 1)).map input) s = runCycles ((List.range n).map fun k => input (k + 1)) u := by
  rw [List.range_succ_eq_map, List.map_cons, List.map_map]
  simp only [runCycles, h]
  rfl

/-- Settles O26, by induction on the bound on the cycles until the block is ready: while it is not, every cycle is idle
and brings it nearer. -/
theorem heldRequestIsEventuallyAccepted : Obligations.HeldRequestIsEventuallyAccepted := by
  intro input s
  induction hb : readyBound s using Nat.strong_induction_on generalizing input s with
  | _ bound ih =>
    intro hheld
    obtain ⟨hr, hv⟩ := hheld 0
    cases hready : s.ready with
    | true => exact ⟨0, s, rfl, (State.handshake_iff _).2 ⟨hr, hv, hready⟩⟩
    | false =>
      have hno : (s.drive (input 0)).handshake = false := by
        simp [State.handshake, State.reqReady, hready]
      have hstep := step_of_no_handshake (s := s.drive (input 0)) hr hno
      rcases idle_ready_or_readyBound_lt (s := s.drive (input 0)) hready with hidle | hlt
      · obtain ⟨hr1, hv1⟩ := hheld 1
        exact ⟨1, _, runCycles_range_succ input 0 hstep, (State.handshake_iff _).2 ⟨hr1, hv1, hidle⟩⟩
      · obtain ⟨n, t, hrun, hacc⟩ :=
          ih _ (hb ▸ hlt) (fun k => input (k + 1)) _ rfl fun k => hheld (k + 1)
        exact ⟨n + 1, t, (runCycles_range_succ input n hstep).trans hrun, hacc⟩

end Sys2Proof.Machine
end

section
/-! The response to a repeated request, and the lanes of a packed bus (20_memory.md R32, R36). -/

namespace Sys2Proof.Machine

/-- Settles O7: the response that both steps append is the block's pure function of the command and the operands. -/
theorem sameRequestGetsTheSameResponse : Obligations.SameRequestGetsTheSameResponse := by
  intro s t hs ht hcmd hop
  have hstep := acceptingStepAppendsTheBlockResponse t ht
  rw [← hcmd, ← hop] at hstep
  exact ⟨respond s.inputs.cmd s.inputs.operands, acceptingStepAppendsTheBlockResponse s hs, hstep⟩

/-- Padding or cutting a list to a length keeps the elements it already has below that length. -/
theorem getElem?_takeD_of_lt {α : Type} (d : α) {n i : Nat} {xs : List α} (hn : i < n) (hi : i < xs.length) :
    (xs.takeD n d)[i]? = xs[i]? := by
  induction n generalizing i xs with
  | zero => exact absurd hn i.not_lt_zero
  | succ n ih =>
    cases xs with
    | nil => exact absurd hi i.not_lt_zero
    | cons x xs =>
      cases i with
      | zero => simp
      | succ i => simpa using ih (Nat.lt_of_succ_lt_succ hn) (Nat.lt_of_succ_lt_succ hi)

/-- Lane `i` that a requester fills from a list is the list's element `i`. -/
theorem lanesOfList_getElem? {w i : Nat} {xs : List (BitVec w)} (hb : i < Config.laneBound) (hi : i < xs.length) :
    (lanesOfList xs)[i]? = xs[i]? := by
  rw [lanesOfList, Vector.getElem?_mk, List.getElem?_toArray, getElem?_takeD_of_lt 0 hb hi]

/-- A lane of a bus of at most 63 lanes is the slice of the bus at that lane's place. -/
theorem lanesOfFlat_getElem? {w n i : Nat} (flat : BitVec (w * n)) (hn : n ≤ Config.laneBound) (hi : i < n) :
    (lanesOfFlat w flat)[i]? = some (laneOfFlat w flat i) := by
  rw [lanesOfFlat, lanesOfList_getElem? (Nat.lt_of_lt_of_le hi hn) (by simpa using hi)]
  simp [hi]

theorem laneOfFlat_getLsbD {w n : Nat} (flat : BitVec (w * n)) (i : Nat) {j : Nat} (hj : j < w) :
    (laneOfFlat w flat i).getLsbD j = flat.getLsbD (w * i + j) := by
  simp [laneOfFlat, hj]

/-- Bit `j` of lane `i` is bit `w * i + j` of the bus, at every lane width `w` (20_memory.md R32). -/
theorem lanesOfFlat_getElem?_getLsbD {w n i j : Nat} (flat : BitVec (w * n)) (hn : n ≤ Config.laneBound) (hi : i < n)
    (hj : j < w) :
    ((lanesOfFlat w flat)[i]?.map fun lane => lane.getLsbD j) = some (flat.getLsbD (w * i + j)) := by
  rw [lanesOfFlat_getElem? flat hn hi, Option.map_some, laneOfFlat_getLsbD flat i hj]

/-- Settles O33: the two widths of the buses, 16 for `VA` and `VB` and 32 for `VI`. -/
theorem packedBusLanesAreConsecutiveBits : Obligations.PackedBusLanesAreConsecutiveBits :=
  ⟨fun _ flat _ _ hn hi hj => lanesOfFlat_getElem?_getLsbD flat hn hi hj,
    fun _ flat _ _ hn hi hj => lanesOfFlat_getElem?_getLsbD flat hn hi hj⟩

end Sys2Proof.Machine
end

section
/-! The command word taken apart and put together: the decoder and the encoder as inverses of one another
(30_encoding.md R47 to R50). -/

namespace Sys2Proof

/-- The fields of the word of a command (30_encoding.md R47). -/
theorem encode_fields (i : Instr) :
    opField (encode i) = opcode i ∧ rsv0Field (encode i) = 0 ∧ anchorField (encode i) = i.anchor ∧
      countField (encode i) = i.count ∧ rsv1Field (encode i) = 0 := by
  obtain ⟨-, ha, hn⟩ := Laws.RowWord.fields_of_word i.count i.anchor (opcode i)
  refine ⟨?_, ?_, ha, hn, ?_⟩
  all_goals
    refine BitVec.eq_of_getLsbD_eq fun k hk => ?_
    simp only [encode, opField, rsv0Field, rsv1Field, BitVec.getLsbD_extractLsb', BitVec.getLsbD_append]
    interval_cases k <;> simp

/-- Any word is its five fields in order (30_encoding.md R47). -/
theorem append_fields (w : CmdWord) : rsv1Field w ++ countField w ++ anchorField w ++ rsv0Field w ++ opField w = w := by
  refine BitVec.eq_of_getLsbD_eq fun k hk => ?_
  simp only [opField, rsv0Field, anchorField, countField, rsv1Field, BitVec.getLsbD_extractLsb', BitVec.getLsbD_append]
  interval_cases k <;> simp

/-- The opcode map answers each operation for its own number (30_encoding.md R49). -/
theorem instrOfOp_opcode (i : Instr) : instrOfOp (opcode i) i.anchor i.count = some i := by cases i <;> rfl

/-- Settles O1: the word's fields are the command's, and the opcode map gives the command back. -/
theorem decodeOfEncodeIsTheCommand : Obligations.DecodeOfEncodeIsTheCommand := by
  intro i
  obtain ⟨hop, h0, ha, hn, h1⟩ := encode_fields i
  simp only [decode, hop, h0, ha, hn, h1, instrOfOp_opcode, and_self, if_true]

/-- Settles O2: a word that decodes has its command's fields, and a word is its fields. -/
theorem decodedWordIsTheEncodingOfItsCommand : Obligations.DecodedWordIsTheEncodingOfItsCommand := by
  intro w i h
  obtain ⟨hop, ha, hn, h0, h1⟩ := decode_eq_ok h
  rw [encode, ← hop, ← ha, ← hn, ← h0, ← h1, append_fields]

/-- Settles O3, by what a word's fields are in each of the decoder's outcomes; in each, the other two are excluded. -/
theorem decoderRejectsExactlyReservedForms : Obligations.DecoderRejectsExactlyReservedForms := by
  intro w
  cases hd : decode w with
  | ok i =>
    obtain ⟨hop, -, -, h0, h1⟩ := decode_eq_ok hd
    have hlt : (opField w).toNat < 9 := hop ▸ opcode_lt_nine i
    refine ⟨iff_of_false nofun (Nat.not_le.2 hlt), iff_of_false nofun ?_, nofun⟩
    rintro ⟨-, hrsv | hrsv⟩
    · exact hrsv h0
    · exact hrsv h1
  | error e =>
    rcases decode_eq_error hd with ⟨rfl, hop⟩ | ⟨rfl, hop, hrsv⟩
    · exact ⟨iff_of_true rfl hop, iff_of_false nofun fun h => Nat.not_lt.2 hop h.1, nofun⟩
    · exact ⟨iff_of_false nofun (Nat.not_le.2 hop), iff_of_true rfl ⟨hop, hrsv⟩, nofun⟩

end Sys2Proof
end

section
/-! A command's response as the pure function of Machine/Respond.lean on the command's own word: what it depends on, and
when it is an error (30_encoding.md R48, R51; 60_exceptions.md R115). -/

namespace Sys2Proof.Machine

/-- The pure function on a command's own word: the count check, where there is one, and the result of the opcode map. -/
theorem respondWith_encode (p : Params) (i : Instr) (o : Operands) :
    respondWith p (encode i) o =
      if i.wellFormedFor p then okResponse (resultOf p (opcode i).toNat i.anchor i.count o)
      else errorResponse .countOutOfRange := by
  obtain ⟨hop, -, ha, hn, -⟩ := encode_fields i
  rw [respondWith, commandCause_of_decode_ok p (decodeOfEncodeIsTheCommand i), hop, ha, hn]
  cases i.wellFormedFor p <;> rfl

theorem respondWith_encode_of_wellFormed {p : Params} {i : Instr} (h : i.wellFormedFor p = true) (o : Operands) :
    respondWith p (encode i) o = okResponse (resultOf p (opcode i).toNat i.anchor i.count o) := by
  rw [respondWith_encode, if_pos h]

/-- An operation appends the response of the pure function to the command's own word. -/
theorem execWith_eq_respondWith_encode (p : Params) (i : Instr) (s : State) :
    execWith p i s = .next (s.acceptWith p (respondWith p (encode i) s.inputs.operands)) :=
  execWith_eq_respondWith p s (decodeOfEncodeIsTheCommand i)

theorem exec_eq_respond_encode (i : Instr) (s : State) :
    exec i s = .next (s.accept (respond (encode i) s.inputs.operands)) :=
  (exec_eq_execWith i s).trans (execWith_eq_respondWith_encode Config.block i s)

/-- A command is well formed exactly if the count it uses, where it uses one, is at most `NMAX` (30_encoding.md R48). -/
theorem wellFormedFor_iff (p : Params) (i : Instr) :
    i.wellFormedFor p = true ↔ (i.usesCount = true → i.count.toNat ≤ p.nmax) := by
  unfold Instr.wellFormedFor
  cases i.usesCount <;> simp

/-! The result of each operation, by its own number (30_encoding.md R49). -/

@[simp] theorem resultOf_widenFp16 (p : Params) (a b : Anchor) (n m : Count) (o : Operands) :
    resultOf p (opcode (.widenFp16 a n)).toNat b m o = data16 (widenFp16 p.canonNanFp16Mant o.c8) := rfl
@[simp] theorem resultOf_widenBf16 (p : Params) (a b : Anchor) (n m : Count) (o : Operands) :
    resultOf p (opcode (.widenBf16 a n)).toNat b m o = data16 (widenBf16 p.canonNanBf16Mant o.c8) := rfl
@[simp] theorem resultOf_mulFp16 (p : Params) (a b : Anchor) (n m : Count) (o : Operands) :
    resultOf p (opcode (.mulFp16 a n)).toNat b m o = data16 (mulFp16 o.a o.b) := rfl
@[simp] theorem resultOf_selAnchor (p : Params) (a b : Anchor) (n m : Count) (o : Operands) :
    resultOf p (opcode (.selAnchor a n)).toNat b m o = data8 (selectAnchor (lanesUsed o.va m) o.c8) := rfl
@[simp] theorem resultOf_alignFp16 (p : Params) (a b : Anchor) (n m : Count) (o : Operands) :
    resultOf p (opcode (.alignFp16 a n)).toNat b m o = alignFp16 o.a b := rfl
@[simp] theorem resultOf_alignE4M3 (p : Params) (a b : Anchor) (n m : Count) (o : Operands) :
    resultOf p (opcode (.alignE4M3 a n)).toNat b m o = alignE4M3 o.c8 b := rfl
@[simp] theorem resultOf_reduce (p : Params) (a b : Anchor) (n m : Count) (o : Operands) :
    resultOf p (opcode (.reduce a n)).toNat b m o = reduceTerms (lanesUsed o.vi m) o.s32 := rfl
@[simp] theorem resultOf_requantBf16 (p : Params) (a b : Anchor) (n m : Count) (o : Operands) :
    resultOf p (opcode (.requantBf16 a n)).toNat b m o = data16 (requantBf16 o.s32 b) := rfl
@[simp] theorem resultOf_mac (p : Params) (a b : Anchor) (n m : Count) (o : Operands) :
    resultOf p (opcode (.mac a n)).toNat b m o =
      data16 (macBf16 (lanesUsed o.va m) (lanesUsed o.vb m) o.c8) := rfl

/-- A result depends on the operands listed for its operation alone (30_encoding.md R51). -/
theorem resultOf_of_agreeOnRead (p : Params) {i : Instr} {o q : Operands} (h : AgreeOnRead i o q) :
    resultOf p (opcode i).toNat i.anchor i.count o = resultOf p (opcode i).toNat i.anchor i.count q := by
  cases i with
  | widenFp16 a n => rw [resultOf_widenFp16, resultOf_widenFp16, show o.c8 = q.c8 from h]
  | widenBf16 a n => rw [resultOf_widenBf16, resultOf_widenBf16, show o.c8 = q.c8 from h]
  | mulFp16 a n => rw [resultOf_mulFp16, resultOf_mulFp16, h.1, h.2]
  | selAnchor a n =>
    have hl : lanesUsed o.va n = lanesUsed q.va n := lanesUsed_congr h.1
    simp only [resultOf_selAnchor, Instr.count, hl, h.2]
  | alignFp16 a n => rw [resultOf_alignFp16, resultOf_alignFp16, show o.a = q.a from h]
  | alignE4M3 a n => rw [resultOf_alignE4M3, resultOf_alignE4M3, show o.c8 = q.c8 from h]
  | reduce a n =>
    have hl : lanesUsed o.vi n = lanesUsed q.vi n := lanesUsed_congr h.1
    simp only [resultOf_reduce, Instr.count, hl, h.2]
  | requantBf16 a n => rw [resultOf_requantBf16, resultOf_requantBf16, show o.s32 = q.s32 from h]
  | mac a n =>
    have ha : lanesUsed o.va n = lanesUsed q.va n := lanesUsed_congr fun k hk => (h.1 k hk).1
    have hb : lanesUsed o.vb n = lanesUsed q.vb n := lanesUsed_congr fun k hk => (h.1 k hk).2
    simp only [resultOf_mac, Instr.count, ha, hb, h.2]

/-- A result depends on no field that its operation does not use (30_encoding.md R48). -/
theorem resultOf_of_used_fields (p : Params) (i : Instr) {a : Anchor} {n : Count} (o : Operands)
    (ha : usesAnchor i = true → i.anchor = a) (hn : i.usesCount = true → i.count = n) :
    resultOf p (opcode i).toNat i.anchor i.count o = resultOf p (opcode i).toNat a n o := by
  cases i with
  | widenFp16 | widenBf16 | mulFp16 => simp
  | alignFp16 | alignE4M3 | requantBf16 => simp [ha rfl]
  | selAnchor | reduce | mac => simp [hn rfl]

/-- Commands of one operation that agree on the fields it uses are well formed together (30_encoding.md R48). -/
theorem wellFormedFor_of_sameUsedFields (p : Params) {i j : Instr} (h : SameUsedFields i j) :
    i.wellFormedFor p = j.wellFormedFor p := by
  obtain ⟨hop, -, hn⟩ := h
  have hu : i.usesCount = j.usesCount := by rw [← opUsesCount_opcode, hop, opUsesCount_opcode]
  rw [Bool.eq_iff_iff, wellFormedFor_iff, wellFormedFor_iff, ← hu]
  exact forall_congr' fun hi => by rw [hn hi]

/-- Settles O14: the response is one for both settings of the buses, since the result is. -/
theorem unreadOperandsDoNotChangeTheResponse : Obligations.UnreadOperandsDoNotChangeTheResponse := by
  intro i s t h
  have same : respond (encode i) s.inputs.operands = respond (encode i) t.inputs.operands := by
    rw [respond, respond, respondWith_encode, respondWith_encode, resultOf_of_agreeOnRead Config.block h]
  exact ⟨respond (encode i) s.inputs.operands, exec_eq_respond_encode i s, same ▸ exec_eq_respond_encode i t⟩

/-- Settles O17: neither the count check nor the result reads a field that is not used. -/
theorem unusedFieldsDoNotChangeTheResponse : Obligations.UnusedFieldsDoNotChangeTheResponse := by
  intro i j s h
  have used := wellFormedFor_of_sameUsedFields Config.block h
  obtain ⟨hop, ha, hn⟩ := h
  rw [exec_eq_respond_encode, exec_eq_respond_encode, respond, respond, respondWith_encode, respondWith_encode,
    used, resultOf_of_used_fields _ i _ ha hn, hop]

/-- Settles O20: a command is well formed or not, and its word is answered accordingly. -/
theorem everyInstanceBoundsCountByItsNmax : Obligations.EveryInstanceBoundsCountByItsNmax := by
  intro p i s
  rw [execWith_eq_respondWith_encode]
  constructor
  · intro h
    exact ⟨_, by rw [respondWith_encode_of_wellFormed ((wellFormedFor_iff p i).2 h), okResponse]⟩
  · intro hu hlt
    have hnot : ¬ i.wellFormedFor p = true := fun h => Nat.not_lt.2 ((wellFormedFor_iff p i).1 h hu) hlt
    rw [respondWith_encode, if_neg hnot]
    rfl

/-- Settles O10: the first half of O20 with the default parameters. -/
theorem everyWellFormedCommandCompletes : Obligations.EveryWellFormedCommandCompletes := by
  intro i s h
  rw [exec_eq_execWith]
  exact (everyInstanceBoundsCountByItsNmax Config.block i s).1 ((wellFormedFor_iff _ i).1 h)

end Sys2Proof.Machine
end

section
/-! Vector buses that carry zeros, or zeros but for one lane, and what the operations over lanes make of them
(42_anchor_exponent_selector.md R82 to R85, 44_fixed_point_accumulator.md R101, 46_mac_composite.md R112). -/

namespace Sys2Proof.Machine

/-- The lanes that an operation uses of a bus filled from a list are the list, when `COUNT` is its length. -/
theorem lanesUsed_lanesOfList {w : Nat} {xs : List (BitVec w)} (h : xs.length ≤ Config.laneBound) :
    lanesUsed (lanesOfList xs) (BitVec.ofNat 6 xs.length) = xs := by
  have hn : (BitVec.ofNat 6 xs.length).toNat = xs.length := by
    rw [BitVec.toNat_ofNat]
    exact Nat.mod_eq_of_lt (Nat.lt_succ_of_le h)
  refine List.ext_getElem? fun k => ?_
  by_cases hk : k < xs.length
  · rw [lanesUsed, countOperand, hn, List.getElem?_take_of_lt hk, Vector.getElem?_toList,
      lanesOfList_getElem? (hk.trans_le h) hk]
  · rw [List.getElem?_eq_none (by rw [lanesUsed_length, hn]; omega), List.getElem?_eq_none (by omega)]

/-- `n` lanes, zero but for lane `k`, which is `x`. -/
def oneLane {w : Nat} (n k : Nat) (x : BitVec w) : List (BitVec w) := (List.replicate n 0).set k x

@[simp] theorem oneLane_length {w : Nat} (n k : Nat) (x : BitVec w) : (oneLane n k x).length = n := by
  rw [oneLane, List.length_set, List.length_replicate]

theorem mem_oneLane_self {w n k : Nat} (h : k < n) (x : BitVec w) : x ∈ oneLane n k x :=
  List.mem_set (by rwa [List.length_replicate]) x

theorem eq_zero_or_eq_of_mem_oneLane {w n k : Nat} {x y : BitVec w} (h : y ∈ oneLane n k x) : y = 0 ∨ y = x :=
  (List.mem_or_eq_of_mem_set h).imp_left List.eq_of_mem_replicate

theorem sum_oneLane {w n k : Nat} (h : k < n) (x : BitVec w) : (oneLane n k x).sum = x := by
  simp [oneLane, List.sum_set, h]

theorem map_oneLane {v w : Nat} {f : BitVec v → BitVec w} (h0 : f 0 = 0) (n k : Nat) (x : BitVec v) :
    (oneLane n k x).map f = oneLane n k (f x) := by
  rw [oneLane, List.map_set, List.map_replicate, h0, oneLane]

theorem zipWith_oneLane {u v w : Nat} {f : BitVec u → BitVec v → BitVec w} (h0 : f 0 0 = 0) (n k : Nat) (x : BitVec u)
    (y : BitVec v) : List.zipWith f (oneLane n k x) (oneLane n k y) = oneLane n k (f x y) := by
  refine List.ext_getElem (by simp) fun j _ _ => ?_
  by_cases hj : k = j <;> simp [oneLane, hj, ← h0]

/-- The lanes that an operation uses of a bus of zeros. -/
theorem lanesUsed_replicate_zero (w : Nat) (n : Count) :
    lanesUsed (Vector.replicate Config.laneBound (0 : BitVec w)) n = List.replicate n.toNat 0 := by
  rw [lanesUsed, Vector.toList_replicate, List.take_replicate, countOperand,
    Nat.min_eq_left (Nat.le_of_lt_succ n.isLt)]

/-- The lanes that an operation uses of a bus of zeros in which one lane is set. -/
theorem lanesUsed_setIfInBounds_zero {w : Nat} (n : Count) (k : Nat) (x : BitVec w) :
    lanesUsed ((Vector.replicate Config.laneBound 0).setIfInBounds k x) n = oneLane n.toNat k x := by
  rw [oneLane, ← lanesUsed_replicate_zero, lanesUsed, lanesUsed, ← List.take_set, Vector.toList_setIfInBounds]

/-- A sum initialized with the addend, each term added with a wrap to 32 bits, is the sum of the patterns
(44_fixed_point_accumulator.md R101). -/
theorem reduceTerms_eq_add_sum (terms : List Fxp) (addend : Fxp) : reduceTerms terms addend = addend + terms.sum := by
  have key (acc : Int) : u32 (terms.foldl (fun acc t => wrap32 (acc + signedOperand t)) acc) = u32 acc + terms.sum := by
    induction terms generalizing acc with
    | nil => simp
    | cons t ts ih =>
      rw [List.foldl_cons, ih, u32_wrap32, BitVec.ofInt_add, signedOperand, BitVec.ofInt_toInt, List.sum_cons, add_assoc,
        u32]
  rw [reduceTerms, key, signedOperand, u32, BitVec.ofInt_toInt]

/-- The maximum is the exponent of any product that no other and not the addend exceeds
(42_anchor_exponent_selector.md R82). -/
theorem maxExp_eq_productExp {products : List Fp16} {c : E4M3} {q : Fp16} (hq : q ∈ products)
    (hmax : ∀ r ∈ products, productExp r ≤ productExp q) (hc : addendExp c ≤ productExp q) :
    maxExp products c = productExp q := by
  obtain ⟨hattained, -, hbound⟩ := foldl_max_spec productExp products (addendExp c)
  refine le_antisymm ?_ (hbound q hq)
  rcases hattained with h | ⟨r, hr, h⟩
  · exact h.trans_le hc
  · exact h.trans_le (hmax r hr)

/-- The maximum is the exponent of the addend if no product exceeds it (42_anchor_exponent_selector.md R82). -/
theorem maxExp_eq_addendExp {products : List Fp16} {c : E4M3} (hmax : ∀ r ∈ products, productExp r ≤ addendExp c) :
    maxExp products c = addendExp c := by
  obtain ⟨hattained, hinit, -⟩ := foldl_max_spec productExp products (addendExp c)
  refine le_antisymm ?_ hinit
  rcases hattained with h | ⟨r, hr, h⟩
  · exact h.le
  · exact h.trans_le (hmax r hr)

/-- The headroom of a batch that fits the buses (42_anchor_exponent_selector.md R83). -/
theorem headroom_bounds {n : Nat} (h : n ≤ Config.laneBound) : 1 ≤ headroom n ∧ headroom n ≤ 7 := by
  have hlog : n ≠ 0 → Nat.log2 n < 6 := fun h0 => (Nat.log2_lt h0).2 (Nat.lt_succ_of_le h)
  unfold headroom bitlen
  split
  · omega
  · have := hlog ‹_›
    omega

/-- The anchor without a clamp (42_anchor_exponent_selector.md R84). -/
theorem selectAnchor_toNat {products : List Fp16} {c : E4M3} {m : Nat} (hm : maxExp products c = m)
    (hfits : m + headroom products.length ≤ 255) :
    (selectAnchor products c).toNat = m + headroom products.length := by
  rw [selectAnchor, hm, clamp, BitVec.toNat_ofNat]
  omega

/-- A MAC's sum is the sum of the aligned patterns (46_mac_composite.md R112). -/
theorem macSum_eq (va vb : List Fp16) (c : E4M3) :
    macSum va vb c =
      alignE4M3 c (macAnchor va vb c) + ((macProducts va vb).map (alignFp16 · (macAnchor va vb c))).sum :=
  reduceTerms_eq_add_sum _ _

theorem mulFp16_zero_zero : mulFp16 0 0 = 0 := rfl
theorem alignFp16_zero (anchor : Anchor) : alignFp16 0 anchor = 0 := rfl
theorem alignE4M3_zero (anchor : Anchor) : alignE4M3 0 anchor = 0 := rfl
theorem requantBf16_zero (anchor : Anchor) : requantBf16 0 anchor = 0 := rfl

theorem encBf16_true_ne_zero (ef mf : Nat) : encBf16 true ef mf ≠ 0 := by
  intro h
  have := congrArg BitVec.toNat h
  rw [encBf16_toNat] at this
  simp at this

theorem requantPack_true_ne_zero (eb : Int) (m : Nat) : requantPack true eb m ≠ 0 := by
  unfold requantPack
  split
  · split <;> exact encBf16_true_ne_zero _ _
  · exact encBf16_true_ne_zero _ _

/-- A negative sum keeps its sign, however small or large it is (45_fxp_to_bf16_requantizer.md R106, R108). -/
theorem requantBf16_ne_zero_of_neg {sum : Fxp} (h : sum.toInt < 0) (anchor : Anchor) : requantBf16 sum anchor ≠ 0 := by
  unfold requantBf16 signedOperand
  simp only [h, h.ne, if_false, decide_true]
  split
  · exact encBf16_true_ne_zero _ _
  · split
    · exact encBf16_true_ne_zero _ _
    · exact requantPack_true_ne_zero _ _

end Sys2Proof.Machine
end

section
/-! Which operands and fields an operation reads: settings of the buses that are otherwise the same and get different
responses (30_encoding.md R51). -/

namespace Sys2Proof.Machine

/-- A 16-bit result is read back from the data bus (10_state.md R20). -/
theorem setWidth_data16 (x : BitVec 16) : (data16 x).setWidth 16 = x := by simp [data16]

/-- An 8-bit result is read back from the data bus (10_state.md R20). -/
theorem setWidth_data8 (x : BitVec 8) : (data8 x).setWidth 8 = x := by simp [data8]

theorem data16_injective : Function.Injective data16 := Function.LeftInverse.injective setWidth_data16
theorem data8_injective : Function.Injective data8 := Function.LeftInverse.injective setWidth_data8

theorem okResponse_injective : Function.Injective okResponse := fun _ _ h => congrArg Response.data h

/-- Well-formed commands with different results get different responses. -/
theorem answersDiffer_of_resultOf_ne {p : Params} {i j : Instr} {s t : State}
    (hi : i.usesCount = true → i.count.toNat ≤ p.nmax) (hj : j.usesCount = true → j.count.toNat ≤ p.nmax)
    (hne : resultOf p (opcode i).toNat i.anchor i.count s.inputs.operands ≠
      resultOf p (opcode j).toNat j.anchor j.count t.inputs.operands) : AnswersDiffer p i s j t := by
  refine ⟨_, _, execWith_eq_respondWith_encode p i s, execWith_eq_respondWith_encode p j t, fun h => hne ?_⟩
  rw [respondWith_encode_of_wellFormed ((wellFormedFor_iff p i).2 hi),
    respondWith_encode_of_wellFormed ((wellFormedFor_iff p j).2 hj)] at h
  exact okResponse_injective h

/-! Per operation: it is enough that its own function answers differently. -/

section
variable {p : Params} {s : State} {o q : Operands} {a b : Anchor} {m n : Count}

theorem widenFp16_answersDiffer (h : widenFp16 p.canonNanFp16Mant o.c8 ≠ widenFp16 p.canonNanFp16Mant q.c8) :
    AnswersDiffer p (.widenFp16 a m) (s.withOperands o) (.widenFp16 b n) (s.withOperands q) :=
  answersDiffer_of_resultOf_ne nofun nofun fun he => h (data16_injective he)

theorem widenBf16_answersDiffer (h : widenBf16 p.canonNanBf16Mant o.c8 ≠ widenBf16 p.canonNanBf16Mant q.c8) :
    AnswersDiffer p (.widenBf16 a m) (s.withOperands o) (.widenBf16 b n) (s.withOperands q) :=
  answersDiffer_of_resultOf_ne nofun nofun fun he => h (data16_injective he)

theorem mulFp16_answersDiffer (h : mulFp16 o.a o.b ≠ mulFp16 q.a q.b) :
    AnswersDiffer p (.mulFp16 a m) (s.withOperands o) (.mulFp16 b n) (s.withOperands q) :=
  answersDiffer_of_resultOf_ne nofun nofun fun he => h (data16_injective he)

theorem selAnchor_answersDiffer (hm : m.toNat ≤ p.nmax) (hn : n.toNat ≤ p.nmax)
    (h : selectAnchor (lanesUsed o.va m) o.c8 ≠ selectAnchor (lanesUsed q.va n) q.c8) :
    AnswersDiffer p (.selAnchor a m) (s.withOperands o) (.selAnchor b n) (s.withOperands q) :=
  answersDiffer_of_resultOf_ne (fun _ => hm) (fun _ => hn) fun he => h (data8_injective he)

theorem alignFp16_answersDiffer (h : alignFp16 o.a a ≠ alignFp16 q.a b) :
    AnswersDiffer p (.alignFp16 a m) (s.withOperands o) (.alignFp16 b n) (s.withOperands q) :=
  answersDiffer_of_resultOf_ne nofun nofun h

theorem alignE4M3_answersDiffer (h : alignE4M3 o.c8 a ≠ alignE4M3 q.c8 b) :
    AnswersDiffer p (.alignE4M3 a m) (s.withOperands o) (.alignE4M3 b n) (s.withOperands q) :=
  answersDiffer_of_resultOf_ne nofun nofun h

theorem reduce_answersDiffer (hm : m.toNat ≤ p.nmax) (hn : n.toNat ≤ p.nmax)
    (h : reduceTerms (lanesUsed o.vi m) o.s32 ≠ reduceTerms (lanesUsed q.vi n) q.s32) :
    AnswersDiffer p (.reduce a m) (s.withOperands o) (.reduce b n) (s.withOperands q) :=
  answersDiffer_of_resultOf_ne (fun _ => hm) (fun _ => hn) h

theorem requantBf16_answersDiffer (h : requantBf16 o.s32 a ≠ requantBf16 q.s32 b) :
    AnswersDiffer p (.requantBf16 a m) (s.withOperands o) (.requantBf16 b n) (s.withOperands q) :=
  answersDiffer_of_resultOf_ne nofun nofun fun he => h (data16_injective he)

theorem mac_answersDiffer (hm : m.toNat ≤ p.nmax) (hn : n.toNat ≤ p.nmax)
    (h : macBf16 (lanesUsed o.va m) (lanesUsed o.vb m) o.c8 ≠ macBf16 (lanesUsed q.va n) (lanesUsed q.vb n) q.c8) :
    AnswersDiffer p (.mac a m) (s.withOperands o) (.mac b n) (s.withOperands q) :=
  answersDiffer_of_resultOf_ne (fun _ => hm) (fun _ => hn) fun he => h (data16_injective he)

end

/-! What the counted operations answer when the buses carry zeros but for the addend. -/

theorem productExp_zero_le_addendExp (c : E4M3) : productExp 0 ≤ addendExp c := by
  have h0 : productExp 0 = -15 := rfl
  rw [h0, addendExp]
  omega

/-- Zeros leave the anchor to the addend (42_anchor_exponent_selector.md R82, R84). -/
theorem selectAnchor_replicate_zero {n : Nat} (hn : n ≤ Config.laneBound) {c : E4M3} {m : Nat} (hc : addendExp c = m)
    (hm : m ≤ 8) : (selectAnchor (List.replicate n 0) c).toNat = m + headroom n := by
  obtain ⟨-, hh⟩ := headroom_bounds hn
  have hmax : maxExp (List.replicate n 0) c = m :=
    (maxExp_eq_addendExp fun r hr => List.eq_of_mem_replicate hr ▸ productExp_zero_le_addendExp c).trans hc
  have := selectAnchor_toNat hmax (by rw [List.length_replicate]; omega)
  rwa [List.length_replicate] at this

/-- One lane that is not below 1 sets the anchor when the others and the addend are zero
(42_anchor_exponent_selector.md R82, R84). -/
theorem selectAnchor_oneLane {n k : Nat} (hn : n ≤ Config.laneBound) (hk : k < n) {x : Fp16} {m : Nat}
    (hx : productExp x = m) (hm : m ≤ 16) : (selectAnchor (oneLane n k x) 0).toNat = m + headroom n := by
  obtain ⟨-, hh⟩ := headroom_bounds hn
  have h0 : productExp 0 = -15 := rfl
  have hc : addendExp 0 = -7 := rfl
  have hmax : maxExp (oneLane n k x) 0 = m := by
    refine (maxExp_eq_productExp (mem_oneLane_self hk x) (fun r hr => ?_) (by omega)).trans hx
    rcases eq_zero_or_eq_of_mem_oneLane hr with rfl | rfl
    · omega
    · exact le_rfl
  have := selectAnchor_toNat hmax (by rw [oneLane_length]; omega)
  rwa [oneLane_length] at this

theorem reduceTerms_replicate_zero (n : Nat) (addend : Fxp) : reduceTerms (List.replicate n 0) addend = addend := by
  rw [reduceTerms_eq_add_sum, List.sum_replicate, smul_zero, add_zero]

theorem reduceTerms_oneLane {n k : Nat} (hk : k < n) (x addend : Fxp) :
    reduceTerms (oneLane n k x) addend = addend + x := by
  rw [reduceTerms_eq_add_sum, sum_oneLane hk]

/-- Zero products leave a MAC its addend (46_mac_composite.md R112). -/
theorem macBf16_replicate_zero (n : Nat) (c : E4M3) :
    macBf16 (List.replicate n 0) (List.replicate n 0) c =
      requantBf16 (alignE4M3 c (selectAnchor (List.replicate n 0) c)) (selectAnchor (List.replicate n 0) c) := by
  have hp : macProducts (List.replicate n 0) (List.replicate n 0) = List.replicate n 0 := by
    simp only [macProducts, List.zipWith_replicate, min_self, mulFp16_zero_zero]
  rw [macBf16, macSum_eq, macAnchor, hp, List.map_replicate, alignFp16_zero, List.sum_replicate, smul_zero, add_zero]

/-- One lane pair among zeros leaves a MAC its product, if the addend is zero too (46_mac_composite.md R112). -/
theorem macBf16_oneLane {n k : Nat} (hk : k < n) (x y : Fp16) :
    macBf16 (oneLane n k x) (oneLane n k y) 0 =
      requantBf16 (alignFp16 (mulFp16 x y) (selectAnchor (oneLane n k (mulFp16 x y)) 0))
        (selectAnchor (oneLane n k (mulFp16 x y)) 0) := by
  rw [macBf16, macSum_eq, macAnchor, macProducts, zipWith_oneLane mulFp16_zero_zero,
    map_oneLane (f := (alignFp16 · _)) (alignFp16_zero _), sum_oneLane hk, alignE4M3_zero, zero_add]

/-- -256 in the frames that it sets as an addend keeps its sign (43_fxp_aligner_pipeline.md R93, R95). -/
theorem alignE4M3_minus256_neg {b : Anchor} (hl : 9 ≤ b.toNat) (hu : b.toNat ≤ 15) : (alignE4M3 0xF8 b).toInt < 0 := by
  rw [show b = BitVec.ofNat 8 b.toNat by simp]
  generalize b.toNat = n at hl hu
  interval_cases n <;> decide

/-- -1 in the frames that it sets as a product keeps its sign (43_fxp_aligner_pipeline.md R93, R95). -/
theorem alignFp16_minus1_neg {b : Anchor} (hl : 1 ≤ b.toNat) (hu : b.toNat ≤ 7) : (alignFp16 0xBC00 b).toInt < 0 := by
  rw [show b = BitVec.ofNat 8 b.toNat by simp]
  generalize b.toNat = n at hl hu
  interval_cases n <;> decide

/-- Addends whose exponents differ set different anchors over zeros. -/
theorem selectAnchor_replicate_zero_ne {n : Nat} (hn : n ≤ Config.laneBound) :
    selectAnchor (List.replicate n 0) 0x78 ≠ selectAnchor (List.replicate n 0) 0x70 := by
  intro h
  have h8 := selectAnchor_replicate_zero hn (c := 0x78) (m := 8) rfl (by decide)
  have h7 := selectAnchor_replicate_zero hn (c := 0x70) (m := 7) rfl (by decide)
  rw [h] at h8
  omega

/-- A negative addend over zero products is not lost (46_mac_composite.md R112). -/
theorem macBf16_replicate_zero_minus256_ne {n : Nat} (hn : n ≤ Config.laneBound) :
    macBf16 (List.replicate n 0) (List.replicate n 0) 0 ≠ macBf16 (List.replicate n 0) (List.replicate n 0) 0xF8 := by
  obtain ⟨hl, hu⟩ := headroom_bounds hn
  have ha := selectAnchor_replicate_zero hn (c := 0xF8) (m := 8) rfl le_rfl
  rw [macBf16_replicate_zero, macBf16_replicate_zero, alignE4M3_zero, requantBf16_zero]
  exact (requantBf16_ne_zero_of_neg (alignE4M3_minus256_neg (by omega) (by omega)) _).symm

/-- Products whose exponents differ set different anchors, wherever among zeros they stand. -/
theorem selectAnchor_oneLane_ne {n k : Nat} (hn : n ≤ Config.laneBound) (hk : k < n) :
    selectAnchor (oneLane n k 0x7800) 0 ≠ selectAnchor (oneLane n k 0x7400) 0 := by
  intro h
  have h15 := selectAnchor_oneLane hn hk (x := 0x7800) (m := 15) rfl (by decide)
  have h14 := selectAnchor_oneLane hn hk (x := 0x7400) (m := 14) rfl (by decide)
  rw [h] at h15
  omega

/-- A pair with the product 0 and one with the product -1 differ in the MAC, wherever among zeros they stand. -/
theorem macBf16_oneLane_ne {n k : Nat} (hn : n ≤ Config.laneBound) (hk : k < n) {x y u v : Fp16}
    (h0 : mulFp16 x y = 0) (h1 : mulFp16 u v = 0xBC00) :
    macBf16 (oneLane n k x) (oneLane n k y) 0 ≠ macBf16 (oneLane n k u) (oneLane n k v) 0 := by
  obtain ⟨hl, hu⟩ := headroom_bounds hn
  have ha := selectAnchor_oneLane hn hk (x := 0xBC00) (m := 0) rfl (by decide)
  rw [macBf16_oneLane hk, macBf16_oneLane hk, h0, h1, alignFp16_zero, requantBf16_zero]
  exact (requantBf16_ne_zero_of_neg (alignFp16_minus1_neg (by omega) (by omega)) _).symm

theorem widenFp16_one_ne_zero (nanMant : BitVec 10) : widenFp16 nanMant 0x38 ≠ widenFp16 nanMant 0 := by
  have h1 : widenFp16 nanMant 0x38 = 0x3C00 := rfl
  have h0 : widenFp16 nanMant 0 = 0 := rfl
  rw [h1, h0]
  decide

theorem widenBf16_one_ne_zero (nanMant : BitVec 7) : widenBf16 nanMant 0x38 ≠ widenBf16 nanMant 0 := by
  have h1 : widenBf16 nanMant 0x38 = 0x3F80 := rfl
  have h0 : widenBf16 nanMant 0 = 0 := rfl
  rw [h1, h0]
  decide

/-- Settles O15: for each operand and field a pair of settings, the counted operations on buses of zeros. -/
theorem listedScalarsAndFieldsAreRead : Obligations.ListedScalarsAndFieldsAreRead := by
  intro p s a n hp on z
  have h1 : (1 : Count).toNat ≤ p.nmax := (of_decide_eq_true hp).1
  have h0 : (0 : Count).toNat ≤ p.nmax := Nat.zero_le _
  have hn63 : n.toNat ≤ Config.laneBound := Nat.le_of_lt_succ n.isLt
  have zeroVa : lanesUsed z.va n = List.replicate n.toNat 0 := lanesUsed_replicate_zero 16 n
  have zeroVb : lanesUsed z.vb n = List.replicate n.toNat 0 := lanesUsed_replicate_zero 16 n
  have zeroVi : lanesUsed z.vi n = List.replicate n.toNat 0 := lanesUsed_replicate_zero 32 n
  refine ⟨?_, ?_, ?_, ?_, ?_, ?_, ?_, ?_, ?_, ?_, ?_, ?_, ?_, ?_, ?_, ?_⟩
  · exact ⟨0x38, 0, widenFp16_answersDiffer (widenFp16_one_ne_zero _)⟩
  · exact ⟨0x38, 0, widenBf16_answersDiffer (widenBf16_one_ne_zero _)⟩
  · exact ⟨0, 0x8000, mulFp16_answersDiffer (by decide)⟩
  · exact ⟨0, 0x8000, mulFp16_answersDiffer (by decide)⟩
  · intro hn
    exact ⟨0x78, 0x70, selAnchor_answersDiffer hn hn (by rw [zeroVa]; exact selectAnchor_replicate_zero_ne hn63)⟩
  · exact ⟨{ z with c8 := 0x78 }, 0, 1, h0, h1, selAnchor_answersDiffer h0 h1 (by decide)⟩
  · exact ⟨15, 0x3C00, 0, alignFp16_answersDiffer (by decide)⟩
  · exact ⟨{ z with a := 0x3C00 }, 15, 16, alignFp16_answersDiffer (by decide)⟩
  · exact ⟨15, 0x38, 0, alignE4M3_answersDiffer (by decide)⟩
  · exact ⟨{ z with c8 := 0x38 }, 15, 16, alignE4M3_answersDiffer (by decide)⟩
  · intro hn
    refine ⟨0, 1, reduce_answersDiffer hn hn ?_⟩
    rw [zeroVi, reduceTerms_replicate_zero, reduceTerms_replicate_zero]
    decide
  · exact ⟨{ z with vi := lanesOfList [1] }, 0, 1, h0, h1, reduce_answersDiffer h0 h1 (by decide)⟩
  · exact ⟨0, -1, requantBf16_answersDiffer (requantBf16_ne_zero_of_neg (by decide) a).symm⟩
  · exact ⟨{ z with s32 := 1 }, 31, 32, requantBf16_answersDiffer (by decide)⟩
  · intro hn
    refine ⟨0, 0xF8, mac_answersDiffer hn hn ?_⟩
    rw [zeroVa, zeroVb]
    exact macBf16_replicate_zero_minus256_ne hn63
  · exact ⟨{ z with va := lanesOfList [0x3C00], vb := lanesOfList [0x3C00] }, 0, 1, h0, h1,
      mac_answersDiffer h0 h1 (by decide)⟩

/-- Settles O16: zeros but for the one lane, and for MAC its partner. -/
theorem everyLaneBelowCountIsRead : Obligations.EveryLaneBelowCountIsRead := by
  intro p s a n k hn hk on
  have hn63 : n.toNat ≤ Config.laneBound := Nat.le_of_lt_succ n.isLt
  have va (x : Fp16) : lanesUsed (Operands.zero.va.setIfInBounds k x) n = oneLane n.toNat k x :=
    lanesUsed_setIfInBounds_zero n k x
  have vb (x : Fp16) : lanesUsed (Operands.zero.vb.setIfInBounds k x) n = oneLane n.toNat k x :=
    lanesUsed_setIfInBounds_zero n k x
  have vi (x : Fxp) : lanesUsed (Operands.zero.vi.setIfInBounds k x) n = oneLane n.toNat k x :=
    lanesUsed_setIfInBounds_zero n k x
  refine ⟨?_, ?_, ?_, ?_⟩
  · refine ⟨Operands.zero, 0x7800, 0x7400, selAnchor_answersDiffer hn hn ?_⟩
    rw [va, va]
    exact selectAnchor_oneLane_ne hn63 hk
  · refine ⟨Operands.zero, 0, 1, reduce_answersDiffer hn hn ?_⟩
    rw [vi, vi, reduceTerms_oneLane hk, reduceTerms_oneLane hk]
    change (0 : Fxp) + 0 ≠ 0 + 1
    decide
  · refine ⟨{ Operands.zero with vb := Operands.zero.vb.setIfInBounds k 0x3C00 }, 0, 0xBC00,
      mac_answersDiffer hn hn ?_⟩
    rw [va, va, vb]
    exact macBf16_oneLane_ne hn63 hk (by decide) (by decide)
  · refine ⟨{ Operands.zero with va := Operands.zero.va.setIfInBounds k 0x3C00 }, 0, 0xBC00,
      mac_answersDiffer hn hn ?_⟩
    rw [va, vb, vb]
    exact macBf16_oneLane_ne hn63 hk (by decide) (by decide)

end Sys2Proof.Machine
end

section
/-! The expansion of `MAC.E4M3` by its requester (30_encoding.md R55). -/

namespace Sys2Proof.Machine

/-- The response to a request for a well-formed command (10_state.md R28). -/
theorem response_encode (i : Instr) (h : i.usesCount = true → i.count.toNat ≤ Config.nmax) (o : Operands) :
    (⟨encode i, o⟩ : Request).response = okResponse (resultOf Config.block (opcode i).toNat i.anchor i.count o) :=
  respondWith_encode_of_wellFormed ((wellFormedFor_iff Config.block i).2 h) o

theorem widenFp16Request_half (x : E4M3) :
    (widenFp16Request x).response.half = widenFp16 Config.canonNanFp16Mant x := by
  rw [widenFp16Request, response_encode (.widenFp16 0 0) nofun, resultOf_widenFp16]
  exact setWidth_data16 _

/-- A request for `MAC` of a batch in range gets its dot product (46_mac_composite.md R112). -/
theorem macRequest_response {va vb : List Fp16} (c : E4M3) (hlen : va.length = vb.length)
    (hn : va.length ≤ Config.nmax) : (macRequest va vb c).response = okResponse (data16 (macBf16 va vb c)) := by
  have h63 : va.length ≤ Config.laneBound := hn.trans (by decide)
  have hcount : (BitVec.ofNat 6 va.length).toNat ≤ Config.nmax := by
    rw [BitVec.toNat_ofNat]
    exact (Nat.mod_le _ _).trans hn
  have ha := lanesUsed_lanesOfList h63
  have hb := lanesUsed_lanesOfList (hlen ▸ h63)
  rw [← hlen] at hb
  rw [macRequest, response_encode (.mac 0 (BitVec.ofNat 6 va.length)) fun _ => hcount, resultOf_mac, Instr.count, ha, hb]

/-- Settles O59: each widening answers its own multiplicand, so the MAC's batch is the widened one. -/
theorem macOfE4M3WidensItsMultiplicands : Obligations.MacOfE4M3WidensItsMultiplicands := by
  intro ea eb c hlen hn
  have widened : (macE4M3Widenings ea eb).map (fun q => q.response.half) =
      ea.map (widenFp16 Config.canonNanFp16Mant) ++ eb.map (widenFp16 Config.canonNanFp16Mant) := by
    rw [macE4M3Widenings, List.map_map, ← List.map_append]
    exact List.map_congr_left fun x _ => widenFp16Request_half x
  rw [macE4M3Request, widened, List.take_left' (by simp), List.drop_left' (by simp),
    macRequest_response c (by simpa using hlen) (by simpa using hn)]
  rfl

end Sys2Proof.Machine
end

section
/-! The fields of the three formats and the numbers they stand for (40_format_decoder.md R58 to R61). -/

namespace Sys2Proof.Machine

/-- A word is its top bit and the two fields below it, in order; the shape of `enc_f` after `dec_f`
(40_format_decoder.md R61). -/
theorem append_sign_and_fields (e m : Nat) (x : BitVec (1 + e + m)) :
    BitVec.ofBool (x.getLsbD (e + m)) ++ BitVec.ofNat e (x.extractLsb' m e).toNat ++
      BitVec.ofNat m (x.extractLsb' 0 m).toNat = x := by
  refine BitVec.eq_of_getLsbD_eq fun k hk => ?_
  rw [BitVec.ofNat_toNat, BitVec.ofNat_toNat, BitVec.setWidth_eq, BitVec.setWidth_eq]
  simp only [BitVec.getLsbD_append, BitVec.getLsbD_extractLsb', BitVec.getLsbD_ofBool]
  by_cases hm : k < m
  · simp [hm]
  · by_cases he : k - m < e
    · simp [hm, he, Nat.add_sub_of_le (Nat.not_lt.1 hm)]
    · have top : k = e + m := by omega
      simp [top]

/-- Settles O31: each format's pattern is its sign and its two fields in order. -/
theorem encodingUndoesDecodingOfFormats : Obligations.EncodingUndoesDecodingOfFormats :=
  ⟨append_sign_and_fields 4 3, append_sign_and_fields 5 10, append_sign_and_fields 8 7⟩

/-- The number of fields without the implicit 1 (40_format_decoder.md R59, R60). -/
theorem literalValue_of_ef_zero (f : FloatFormat) {u : Unpacked} (h : u.ef = 0) :
    literalValue f u = (if u.sign then -1 else 1) * u.mf * (2 : ℚ) ^ (1 - f.bias - f.fracBits : Int) := by
  rw [literalValue, significand, unbiasedExp, if_pos h, if_pos h]

/-- The number of fields with the implicit 1 (40_format_decoder.md R59, R60). -/
theorem literalValue_of_ef_ne_zero (f : FloatFormat) {u : Unpacked} (h : u.ef ≠ 0) :
    literalValue f u =
      (if u.sign then -1 else 1) * (2 ^ f.fracBits + u.mf) * (2 : ℚ) ^ ((u.ef : Int) - f.bias - f.fracBits) := by
  rw [literalValue, significand, unbiasedExp, if_neg h, if_neg h]
  push_cast
  rfl

/-- The two classes with significant bits tell whether the exponent field is zero (40_format_decoder.md R58). -/
theorem classOf_ef (emax : Nat) (u : Unpacked) :
    (classOf emax u = .subnormal → u.ef = 0) ∧ (classOf emax u = .normal → u.ef ≠ 0) := by
  unfold classOf
  by_cases he : u.ef = 0
  · refine ⟨fun _ => he, ?_⟩
    rw [if_pos he]
    split <;> nofun
  · refine ⟨?_, fun _ => he⟩
    rw [if_neg he]
    split
    · split <;> nofun
    · nofun

/-- e4m3 has no infinity, and its classes tell whether the exponent field is zero as the other formats' do
(40_format_decoder.md R58). -/
theorem classE4M3_ef (x : E4M3) :
    (classE4M3 x = .subnormal → (decE4M3 x).ef = 0) ∧ (classE4M3 x = .normal → (decE4M3 x).ef ≠ 0) ∧
      classE4M3 x ≠ .inf := by
  unfold classE4M3
  split
  · exact ⟨nofun, nofun, nofun⟩
  · by_cases he : (decE4M3 x).ef = 0
    · refine ⟨fun _ => he, ?_⟩
      rw [if_pos he]
      split <;> exact ⟨nofun, nofun⟩
    · rw [if_neg he]
      exact ⟨nofun, fun _ => he, nofun⟩

/-- What the fields of each class denote in any format (40_format_decoder.md R59). -/
theorem denotationOf_by_class (f : FloatFormat) {c : FloatClass} {u : Unpacked} (hsub : c = .subnormal → u.ef = 0)
    (hnorm : c = .normal → u.ef ≠ 0) :
    let sign : ℚ := if u.sign then -1 else 1
    (c = .zero → denotationOf c f u = .real 0) ∧
    (c = .subnormal → denotationOf c f u = .real (sign * u.mf * (2 : ℚ) ^ (1 - f.bias - f.fracBits : Int))) ∧
    (c = .normal → denotationOf c f u =
      .real (sign * (2 ^ f.fracBits + u.mf) * (2 : ℚ) ^ ((u.ef : Int) - f.bias - f.fracBits))) ∧
    (c = .inf → denotationOf c f u = .infinity u.sign) ∧ (c = .nan → denotationOf c f u = .notANumber) := by
  refine ⟨?_, ?_, ?_, ?_, ?_⟩ <;> rintro rfl
  · rfl
  · exact congrArg Denotation.real (literalValue_of_ef_zero f (hsub rfl))
  · exact congrArg Denotation.real (literalValue_of_ef_ne_zero f (hnorm rfl))
  · rfl
  · rfl

/-- A pattern other than the sentinel denotes the number of its fields. -/
theorem valueE4M3_of_fields {x : E4M3} {u : Unpacked} {v : ℚ} (hx : x ≠ 0xFF) (hu : decE4M3 x = u)
    (hv : literalValue e4m3Format u = v) : valueE4M3 x = .real v := by
  rw [valueE4M3_of_not_sentinel x hx, literalE4M3, hu, hv]

/-- Settles O32: the value by class in the three formats, and the rule's examples from their fields. -/
theorem patternsDenoteTheirValues : Obligations.PatternsDenoteTheirValues := by
  refine ⟨fun x => ?_, fun x => ?_, fun x => ?_, ?_⟩
  · obtain ⟨hsub, hnorm, hinf⟩ := classE4M3_ef x
    obtain ⟨zero, subnormal, normal, -, nan⟩ := denotationOf_by_class e4m3Format hsub hnorm
    exact ⟨zero, subnormal, normal, nan, hinf⟩
  · obtain ⟨hsub, hnorm⟩ := classOf_ef 31 (decFp16 x)
    exact denotationOf_by_class fp16Format hsub hnorm
  · obtain ⟨hsub, hnorm⟩ := classOf_ef 255 (decBf16 x)
    exact denotationOf_by_class bf16Format hsub hnorm
  · refine ⟨valueE4M3_of_fields (u := ⟨false, 0, 1⟩) (by decide) rfl ?_,
      valueE4M3_of_fields (u := ⟨false, 0, 7⟩) (by decide) rfl ?_,
      valueE4M3_of_fields (u := ⟨false, 1, 0⟩) (by decide) rfl ?_,
      valueE4M3_of_fields (u := ⟨false, 7, 0⟩) (by decide) rfl ?_,
      valueE4M3_of_fields (u := ⟨false, 8, 0⟩) (by decide) rfl ?_,
      valueE4M3_of_fields (u := ⟨false, 15, 7⟩) (by decide) rfl ?_,
      valueE4M3_of_fields (u := ⟨true, 15, 6⟩) (by decide) rfl ?_⟩ <;>
    norm_num [literalValue, significand, unbiasedExp, e4m3Format]

end Sys2Proof.Machine
end

section
/-! Widening: the exponent and mantissa of a nonzero pattern in normal form, the same fields in the wider format, and the
sentinel (40_format_decoder.md R62 to R67). -/

namespace Sys2Proof.Machine

/-- The fields of the widened pattern in a format of at least three fraction bits (40_format_decoder.md R65, R66); tied to
the model by `decFp16_widenFp16` and `decBf16_widenBf16`. -/
def widenFields (f : FloatFormat) (u : Unpacked) : Unpacked :=
  if u.ef = 0 ∧ u.mf = 0 then ⟨u.sign, 0, 0⟩
  else ⟨u.sign, (widenExp u + f.bias).toNat, widenMant u <<< (f.fracBits - 3)⟩

theorem widenFields_sign (f : FloatFormat) (u : Unpacked) : (widenFields f u).sign = u.sign := by
  unfold widenFields
  split <;> rfl

/-- A nonzero mantissa field's leading 1 is one of its three bits (40_format_decoder.md R63). -/
theorem msb_le_two {mf : Nat} (hmf : mf < 8) (h0 : mf ≠ 0) : msb mf ≤ 2 := by
  have hpow : 2 ^ msb mf < 2 ^ 3 := (msb_bounds mf h0).1.trans_lt hmf
  exact Nat.le_of_lt_succ ((Nat.pow_lt_pow_iff_right (by decide)).1 hpow)

/-- The shift brings the leading 1 to the implicit-bit position, and the three bits below it remain
(40_format_decoder.md R63). -/
theorem shift_eq_eight_add_normalizedMant {mf : Nat} (hmf : mf < 8) (h0 : mf ≠ 0) :
    mf * 2 ^ (3 - msb mf) = 8 + normalizedMant mf := by
  obtain ⟨hlow, hhigh⟩ := msb_bounds mf h0
  have hp := msb_le_two hmf h0
  rw [normalizedMant, Nat.shiftLeft_eq]
  generalize msb mf = p at *
  interval_cases p <;> omega

/-- Normalization keeps the subnormal's value (40_format_decoder.md R63). -/
theorem normalized_value {mf : Nat} (hmf : mf < 8) (h0 : mf ≠ 0) :
    (8 + normalizedMant mf : ℚ) * 2 ^ (normalizedExp mf - 3) = mf * 2 ^ (1 - 7 - 3 : Int) := by
  have hp : msb mf ≤ 3 := (msb_le_two hmf h0).trans (by decide)
  have hshift : (8 + normalizedMant mf : ℚ) = mf * 2 ^ (3 - msb mf) := by
    exact_mod_cast (shift_eq_eight_add_normalizedMant hmf h0).symm
  have hexp : ((3 - msb mf : Nat) : Int) + (normalizedExp mf - 3) = 1 - 7 - 3 := by
    unfold normalizedExp
    omega
  rw [hshift, mul_assoc, ← zpow_natCast, ← zpow_add₀ two_ne_zero, hexp]

theorem widenMant_lt {u : Unpacked} (hmf : u.mf < 8) : widenMant u < 8 := by
  unfold widenMant
  split
  · exact Nat.mod_lt _ (by decide)
  · exact hmf

/-- The exponents of the nonzero e4m3 numbers (40_format_decoder.md R67). -/
theorem widenExp_bounds {u : Unpacked} (hef : u.ef < 16) (hmf : u.mf < 8) (h0 : ¬(u.ef = 0 ∧ u.mf = 0)) :
    -9 ≤ widenExp u ∧ widenExp u ≤ 8 := by
  unfold widenExp
  split
  next he =>
    have hp := msb_le_two hmf fun hm => h0 ⟨he, hm⟩
    unfold normalizedExp
    omega
  next he => omega

/-- A nonzero e4m3 number in normal form, `(-1)^s × (8 + m3) × 2^(E - 3)` (40_format_decoder.md R63, R67). -/
theorem literalValue_e4m3_normal_form {u : Unpacked} (hmf : u.mf < 8) (h0 : ¬(u.ef = 0 ∧ u.mf = 0)) :
    literalValue e4m3Format u =
      (if u.sign then -1 else 1) * (8 + widenMant u) * (2 : ℚ) ^ (widenExp u - 3) := by
  by_cases he : u.ef = 0
  · have hm : u.mf ≠ 0 := fun hm => h0 ⟨he, hm⟩
    rw [literalValue_of_ef_zero _ he, widenMant, widenExp, if_pos he, if_pos he, mul_assoc, mul_assoc,
      normalized_value hmf hm]
    rfl
  · rw [literalValue_of_ef_ne_zero _ he, widenMant, widenExp, if_neg he, if_neg he]
    norm_num [e4m3Format]

section
variable {f : FloatFormat} {u : Unpacked} (hbias : 9 < f.bias) (hef : u.ef < 16) (hmf : u.mf < 8)
include hbias hef hmf

theorem widenFields_ef_ne_zero (h0 : ¬(u.ef = 0 ∧ u.mf = 0)) : (widenFields f u).ef ≠ 0 := by
  obtain ⟨hlow, -⟩ := widenExp_bounds hef hmf h0
  rw [widenFields, if_neg h0]
  show (widenExp u + f.bias).toNat ≠ 0
  omega

/-- The wider format has an exponent field for each exponent, so it holds the same number (40_format_decoder.md R67). -/
theorem literalValue_widenFields (hfrac : 3 ≤ f.fracBits) :
    literalValue f (widenFields f u) = literalValue e4m3Format u := by
  by_cases h0 : u.ef = 0 ∧ u.mf = 0
  · obtain ⟨he, hm⟩ := h0
    simp [widenFields, literalValue, significand, he, hm]
  · obtain ⟨hlow, -⟩ := widenExp_bounds hef hmf h0
    have hne := widenFields_ef_ne_zero hbias hef hmf h0
    rw [literalValue_of_ef_ne_zero f hne, literalValue_e4m3_normal_form hmf h0, widenFields, if_neg h0]
    obtain ⟨k, hk⟩ := Nat.exists_eq_add_of_le' hfrac
    have hexp : ((widenExp u + f.bias).toNat : Int) - f.bias - (k + 3 : Nat) = -k + (widenExp u - 3) := by omega
    simp only [hk, hexp, Nat.add_sub_cancel, Nat.shiftLeft_eq]
    rw [zpow_add₀ two_ne_zero, zpow_neg, zpow_natCast]
    push_cast
    field_simp
    ring

theorem widenFields_ef_lt : (widenFields f u).ef < f.bias + 9 := by
  unfold widenFields
  split
  next h0 => exact Nat.succ_pos _
  next h0 =>
    obtain ⟨-, hhigh⟩ := widenExp_bounds hef hmf h0
    show (widenExp u + f.bias).toNat < f.bias + 9
    omega

/-- No widened pattern is subnormal, an infinity or a NaN (40_format_decoder.md R62). -/
theorem classOf_widenFields {emax : Nat} (hmax : f.bias + 9 ≤ emax) :
    classOf emax (widenFields f u) = .zero ∨ classOf emax (widenFields f u) = .normal := by
  by_cases h0 : u.ef = 0 ∧ u.mf = 0
  · rw [widenFields, if_pos h0]
    exact .inl rfl
  · have hne := widenFields_ef_ne_zero hbias hef hmf h0
    have hlt := ((widenFields_ef_lt hbias hef hmf).trans_le hmax).ne
    exact .inr (by rw [classOf, if_neg hne, if_neg hlt])

/-- The contract of widening in fields, for any wider format (40_format_decoder.md R62). -/
theorem widenFields_contract {emax : Nat} (hfrac : 3 ≤ f.fracBits) (hmax : f.bias + 9 ≤ emax) :
    let w := widenFields f u
    denotationOf (classOf emax w) f w = .real (literalValue e4m3Format u) ∧ w.sign = u.sign ∧
      (classOf emax w = .zero ∨ classOf emax w = .normal) := by
  intro w
  have hclass : classOf emax w = .zero ∨ classOf emax w = .normal := classOf_widenFields hbias hef hmf hmax
  have hfinite : (classOf emax w).isFinite = true := by rcases hclass with h | h <;> rw [h] <;> rfl
  have hvalue := denotationOf_finite (classOf emax w) f w hfinite classOf_zero
  exact ⟨hvalue.trans (congrArg _ (literalValue_widenFields hbias hef hmf hfrac)), widenFields_sign f u, hclass⟩

end

theorem widenFields_mf_lt {f : FloatFormat} {u : Unpacked} (hmf : u.mf < 8) (hfrac : 3 ≤ f.fracBits) :
    (widenFields f u).mf < 2 ^ f.fracBits := by
  unfold widenFields
  split
  · exact Nat.two_pow_pos _
  · calc widenMant u <<< (f.fracBits - 3)
      _ = widenMant u * 2 ^ (f.fracBits - 3) := Nat.shiftLeft_eq _ _
      _ < 2 ^ 3 * 2 ^ (f.fracBits - 3) := Nat.mul_lt_mul_of_pos_right (widenMant_lt hmf) (Nat.two_pow_pos _)
      _ = 2 ^ f.fracBits := by rw [← pow_add, Nat.add_sub_of_le hfrac]

/-- `widen_to_fp16` in fields (40_format_decoder.md R65): packing and decoding keep them, since they are in range. -/
theorem decFp16_widenFp16 (nanMant : BitVec 10) {x : E4M3} (hx : x ≠ 0xFF) :
    decFp16 (widenFp16 nanMant x) = widenFields fp16Format (decE4M3 x) := by
  have packed : widenFp16 nanMant x = encFp16 (widenFields fp16Format (decE4M3 x)).sign
      (widenFields fp16Format (decE4M3 x)).ef (widenFields fp16Format (decE4M3 x)).mf := by
    rw [widenFp16, if_neg hx, widenFields]
    split <;> rfl
  have hef := widenFields_ef_lt (f := fp16Format) (by decide) (decE4M3_ef_lt x) (decE4M3_mf_lt x)
  rw [packed]
  exact decFp16_encFp16 _ _ _ (hef.trans (by decide)) (widenFields_mf_lt (decE4M3_mf_lt x) (by decide))

/-- `widen_to_bf16` in fields (40_format_decoder.md R66): packing and decoding keep them, since they are in range. -/
theorem decBf16_widenBf16 (nanMant : BitVec 7) {x : E4M3} (hx : x ≠ 0xFF) :
    decBf16 (widenBf16 nanMant x) = widenFields bf16Format (decE4M3 x) := by
  have packed : widenBf16 nanMant x = encBf16 (widenFields bf16Format (decE4M3 x)).sign
      (widenFields bf16Format (decE4M3 x)).ef (widenFields bf16Format (decE4M3 x)).mf := by
    rw [widenBf16, if_neg hx, widenFields]
    split <;> rfl
  have hef := widenFields_ef_lt (f := bf16Format) (by decide) (decE4M3_ef_lt x) (decE4M3_mf_lt x)
  rw [packed]
  exact decBf16_encBf16 _ _ _ (hef.trans (by decide)) (widenFields_mf_lt (decE4M3_mf_lt x) (by decide))

/-- The contract of widening to fp16 (40_format_decoder.md R62). -/
theorem widenFp16_contract (nanMant : BitVec 10) {x : E4M3} (hx : x ≠ 0xFF) :
    let y := widenFp16 nanMant x
    valueFp16 y = valueE4M3 x ∧ (decFp16 y).sign = (decE4M3 x).sign ∧ (classFp16 y = .zero ∨ classFp16 y = .normal) := by
  simp only [valueFp16, classFp16, decFp16_widenFp16 nanMant hx, valueE4M3_of_not_sentinel x hx]
  exact widenFields_contract (by decide) (decE4M3_ef_lt x) (decE4M3_mf_lt x) (by decide) (by decide)

/-- The contract of widening to bf16 (40_format_decoder.md R62). -/
theorem widenBf16_contract (nanMant : BitVec 7) {x : E4M3} (hx : x ≠ 0xFF) :
    let y := widenBf16 nanMant x
    valueBf16 y = valueE4M3 x ∧ (decBf16 y).sign = (decE4M3 x).sign ∧ (classBf16 y = .zero ∨ classBf16 y = .normal) := by
  simp only [valueBf16, classBf16, decBf16_widenBf16 nanMant hx, valueE4M3_of_not_sentinel x hx]
  exact widenFields_contract (by decide) (decE4M3_ef_lt x) (decE4M3_mf_lt x) (by decide) (by decide)

/-- `WIDEN.FP16` appends the widened pattern (40_format_decoder.md R65). -/
theorem execWith_widenFp16 (p : Params) (a : Anchor) (n : Count) (s : State) :
    execWith p (.widenFp16 a n) s =
      .next (s.acceptWith p ⟨false, 0, (widenFp16 p.canonNanFp16Mant s.inputs.operands.c8).setWidth 32⟩) := rfl

/-- `WIDEN.BF16` appends the widened pattern (40_format_decoder.md R66). -/
theorem execWith_widenBf16 (p : Params) (a : Anchor) (n : Count) (s : State) :
    execWith p (.widenBf16 a n) s =
      .next (s.acceptWith p ⟨false, 0, (widenBf16 p.canonNanBf16Mant s.inputs.operands.c8).setWidth 32⟩) := rfl

/-- Settles O34: the answer of each operation is the widened pattern, which keeps the contract. -/
theorem wideningPreservesValueAndSign : Obligations.WideningPreservesValueAndSign := fun a n s hx =>
  ⟨⟨_, (exec_eq_execWith _ s).trans (execWith_widenFp16 Config.block a n s), widenFp16_contract _ hx⟩,
    ⟨_, (exec_eq_execWith _ s).trans (execWith_widenBf16 Config.block a n s), widenBf16_contract _ hx⟩⟩

theorem widenFp16_sentinel (nanMant : BitVec 10) : widenFp16 nanMant 0xFF = encFp16 true 31 nanMant.toNat := by
  rw [widenFp16, if_pos rfl]

theorem widenBf16_sentinel (nanMant : BitVec 7) : widenBf16 nanMant 0xFF = encBf16 true 255 nanMant.toNat := by
  rw [widenBf16, if_pos rfl]

/-- The all-ones exponent field with a nonzero mantissa is a NaN (40_format_decoder.md R58). -/
theorem classOf_nan {emax : Nat} (hmax : emax ≠ 0) (s : Bool) {w : Nat} {m : BitVec w} (hm : m ≠ 0) :
    classOf emax ⟨s, emax, m.toNat⟩ = .nan := by
  have hnat : m.toNat ≠ 0 := fun h => hm (BitVec.eq_of_toNat_eq h)
  simp only [classOf, hmax, hnat, if_true, if_false]

/-- Settles O35: for all parameters the sentinel widens by the first branch, whose fields decode to a NaN's. -/
theorem sentinelWidensToTheCanonicalNan : Obligations.SentinelWidensToTheCanonicalNan := by
  have forAll : ∀ (p : Params) (a : Anchor) (n : Count) (s : State), s.inputs.operands.c8 = 0xFF →
      execWith p (.widenFp16 a n) s =
        .next (s.acceptWith p ⟨false, 0, (encFp16 true 31 p.canonNanFp16Mant.toNat).setWidth 32⟩) ∧
      execWith p (.widenBf16 a n) s =
        .next (s.acceptWith p ⟨false, 0, (encBf16 true 255 p.canonNanBf16Mant.toNat).setWidth 32⟩) := by
    intro p a n s hs
    rw [execWith_widenFp16, execWith_widenBf16, hs, widenFp16_sentinel, widenBf16_sentinel]
    exact ⟨rfl, rfl⟩
  refine ⟨fun a n s hs => ?_, forAll, fun m hm => ?_, fun m hm => ?_, rfl, rfl⟩
  · rw [exec_eq_execWith, exec_eq_execWith]
    exact forAll Config.block a n s hs
  · have fields := decFp16_encFp16 true 31 m.toNat (by decide) m.isLt
    rw [widenFp16_sentinel, classFp16, fields]
    exact ⟨rfl, classOf_nan (by decide) true hm, rfl⟩
  · have fields := decBf16_encBf16 true 255 m.toNat (by decide) m.isLt
    rw [widenBf16_sentinel, classBf16, fields]
    exact ⟨rfl, classOf_nan (by decide) true hm, rfl⟩

end Sys2Proof.Machine
end

section
/-! Multiplication: the two branches of the multiplier, and the sign that each of them packs (41_fp16_multiplier.md R68 to
R75). -/

namespace Sys2Proof.Machine

/-- The sign bit stands above the two fields, which are cut to their widths, so it is decoded whatever they are
(40_format_decoder.md R61). -/
@[simp] theorem decFp16_encFp16_sign (s : Bool) (ef mf : Nat) : (decFp16 (encFp16 s ef mf)).sign = s := by
  rw [decFp16_eq, encFp16_toNat]
  cases s <;> simp <;> omega

/-- All three range-check outcomes keep the sign (41_fp16_multiplier.md R75). -/
@[simp] theorem mulPack_sign (s : Bool) (eb : Int) (m : Nat) : (decFp16 (mulPack s eb m)).sign = s := by
  unfold mulPack
  split_ifs
  case pos => exact decFp16_encFp16_sign s 31 0
  case pos => exact decFp16_encFp16_sign s 0 0
  case neg => exact decFp16_encFp16_sign s eb.toNat m

/-- An operand of exponent field 0, a zero or a subnormal (41_fp16_multiplier.md R69). -/
theorem mulFp16_of_ef_zero {x y : Fp16} (h : (decFp16 x).ef = 0 ∨ (decFp16 y).ef = 0) :
    mulFp16 x y = encFp16 (xor (decFp16 x).sign (decFp16 y).sign) 0 0 := if_pos h

/-- Neither operand has exponent field 0: the rounded product is packed, with the carry of the rounding in the exponent
(41_fp16_multiplier.md R70 to R75). -/
theorem mulFp16_of_ef_ne_zero {x y : Fp16} (h : ¬((decFp16 x).ef = 0 ∨ (decFp16 y).ef = 0)) :
    mulFp16 x y =
      if mulRound (mulProduct (decFp16 x) (decFp16 y)) = 1024 then
        mulPack (xor (decFp16 x).sign (decFp16 y).sign) (mulExp (decFp16 x) (decFp16 y) + 1 + 15) 0
      else
        mulPack (xor (decFp16 x).sign (decFp16 y).sign) (mulExp (decFp16 x) (decFp16 y) + 15)
          (mulRound (mulProduct (decFp16 x) (decFp16 y))) := if_neg h

/-- The sign of a product (41_fp16_multiplier.md R68). -/
theorem mulFp16_sign (x y : Fp16) : (decFp16 (mulFp16 x y)).sign = xor (decFp16 x).sign (decFp16 y).sign := by
  by_cases h : (decFp16 x).ef = 0 ∨ (decFp16 y).ef = 0
  · rw [mulFp16_of_ef_zero h, decFp16_encFp16_sign]
  · rw [mulFp16_of_ef_ne_zero h]
    split <;> exact mulPack_sign _ _ _

/-- `MUL.FP16` appends the product (41_fp16_multiplier.md R78). -/
theorem execWith_mulFp16 (p : Params) (a : Anchor) (n : Count) (s : State) :
    execWith p (.mulFp16 a n) s =
      .next (s.acceptWith p ⟨false, 0, (mulFp16 s.inputs.operands.a s.inputs.operands.b).setWidth 32⟩) := rfl

/-- `MUL.FP16` in the machine's instance. -/
theorem exec_mulFp16 (a : Anchor) (n : Count) (s : State) :
    exec (.mulFp16 a n) s =
      .next (s.accept ⟨false, 0, (mulFp16 s.inputs.operands.a s.inputs.operands.b).setWidth 32⟩) :=
  (exec_eq_execWith _ s).trans (execWith_mulFp16 Config.block a n s)

/-- Settles O37: the answer is the product, whose sign every branch of the multiplier packs. -/
theorem mulSignIsXorOfSigns : Obligations.MulSignIsXorOfSigns := fun a n s =>
  ⟨_, exec_mulFp16 a n s, mulFp16_sign _ _⟩

/-- Settles O36: the answer is the product, by the multiplier's first branch. -/
theorem mulOfZeroOrSubnormalIsSignedZero : Obligations.MulOfZeroOrSubnormalIsSignedZero := by
  intro a n s x y h
  rw [exec_mulFp16, mulFp16_of_ef_zero h]

end Sys2Proof.Machine
end

section
/-! Alignment outside the window: a zero input, and the shifts that leave no bit of the significand
(43_fxp_aligner_pipeline.md R89 to R94). -/

namespace Sys2Proof.Machine

/-- `ALIGN.FP16` appends the aligned value (43_fxp_aligner_pipeline.md R96). -/
theorem exec_alignFp16 (a : Anchor) (n : Count) (s : State) :
    exec (.alignFp16 a n) s = .next (s.accept ⟨false, 0, alignFp16 s.inputs.operands.a a⟩) := rfl

/-- `ALIGN.E4M3` appends the aligned value (43_fxp_aligner_pipeline.md R97). -/
theorem exec_alignE4M3 (a : Anchor) (n : Count) (s : State) :
    exec (.alignE4M3 a n) s = .next (s.accept ⟨false, 0, alignE4M3 s.inputs.operands.c8 a⟩) := rfl

/-- Past either end of the window no bit is kept (43_fxp_aligner_pipeline.md R91, R94). -/
theorem alignMag_of_outside (sig : Nat) {shift : Int} (h : 32 ≤ shift ∨ shift < -31) : alignMag sig shift = 0 := by
  unfold alignMag
  rcases h with hbelow | habove
  · rw [if_pos hbelow]
  · rw [if_neg (by omega), if_neg (by omega), if_neg (by omega)]

/-- Either sign, any format and any anchor (43_fxp_aligner_pipeline.md R89). -/
theorem alignFields_of_zero (f : FloatFormat) {u : Unpacked} (anchor : Nat) (h : u.ef = 0 ∧ u.mf = 0) :
    alignFields f u anchor = 0 := if_pos h

/-- A magnitude of 0 has no sign (43_fxp_aligner_pipeline.md R95). -/
theorem alignFields_of_alignMag_zero {f : FloatFormat} {u : Unpacked} {anchor : Nat}
    (h : alignMag (significand f u) (alignShift f u anchor) = 0) : alignFields f u anchor = 0 := by
  unfold alignFields
  split
  · rfl
  · rw [h]
    cases u.sign <;> rfl

/-- The three ways to align to 0 whatever the significand, in any format (43_fxp_aligner_pipeline.md R89, R91, R94). -/
theorem alignFields_outside {f : FloatFormat} {u : Unpacked} {anchor : Nat}
    (h : (u.ef = 0 ∧ u.mf = 0) ∨ 32 ≤ alignShift f u anchor ∨ alignShift f u anchor < -31) :
    alignFields f u anchor = 0 := by
  rcases h with hzero | hshift
  · exact alignFields_of_zero f anchor hzero
  · exact alignFields_of_alignMag_zero (alignMag_of_outside _ hshift)

/-- Settles O44: the answer of each operation is the aligned value, whose shift is the one stated with the format's own
bias and fraction bits. -/
theorem alignOutsideTheWindowIsZero : Obligations.AlignOutsideTheWindowIsZero := by
  intro a n s u v shiftU shiftV
  have hshiftU : alignShift fp16Format u (anchorOperand a) = shiftU := rfl
  have hshiftV : alignShift e4m3Format v (anchorOperand a) = shiftV := rfl
  constructor
  · intro h
    rw [← hshiftU] at h
    rw [exec_alignFp16, alignFp16, alignFields_outside h]
  · intro h
    rw [← hshiftV] at h
    rw [exec_alignE4M3, alignE4M3, alignFields_outside h]

end Sys2Proof.Machine
end

section
/-! `REDUCE`: the wrapped sum of patterns as an exact sum of their signed readings, and the operation's two answers
(44_fixed_point_accumulator.md R100, R101). -/

namespace Sys2Proof.Machine

/-- Adding patterns is adding their signed readings exactly and wrapping once, at the end (44_fixed_point_accumulator.md
R101). -/
theorem ofInt_sum_toInt {w : Nat} (xs : List (BitVec w)) : BitVec.ofInt w (xs.map BitVec.toInt).sum = xs.sum := by
  induction xs with
  | nil => rfl
  | cons x xs ih => rw [List.map_cons, List.sum_cons, List.sum_cons, BitVec.ofInt_add, BitVec.ofInt_toInt, ih]

/-- The accumulator wraps at every step, and the exact sum wrapped once is the same pattern
(44_fixed_point_accumulator.md R101). -/
theorem reduceTerms_eq_ofInt_exact_sum (terms : List Fxp) (addend : Fxp) :
    reduceTerms terms addend = BitVec.ofInt 32 (addend.toInt + (terms.map BitVec.toInt).sum) := by
  rw [reduceTerms_eq_add_sum, BitVec.ofInt_add, BitVec.ofInt_toInt, ofInt_sum_toInt]

/-- `REDUCE` with a legal count appends the sum (44_fixed_point_accumulator.md R101). -/
theorem exec_reduce_of_legal (a : Anchor) {n : Count} (s : State) (h : n.toNat ≤ Config.nmax) :
    exec (.reduce a n) s =
      .next (s.accept ⟨false, 0, reduceTerms (s.inputs.operands.vi.toList.take n.toNat) s.inputs.operands.s32⟩) :=
  congrArg Host.Outcome.next (acceptCounted_of_legal Config.block s n _ h)

/-- `REDUCE` with a count above `NMAX` appends the error response (60_exceptions.md R115). -/
theorem exec_reduce_of_illegal (a : Anchor) {n : Count} (s : State) (h : Config.nmax < n.toNat) :
    exec (.reduce a n) s = .next (s.accept ⟨true, 3, 0⟩) :=
  congrArg Host.Outcome.next (acceptCounted_of_illegal Config.block s n _ h)

/-- Settles O47: a legal count is answered with the accumulator's sum, which is the exact sum wrapped, and any other with
the error response. -/
theorem reduceIsTheExactSumWrapped : Obligations.ReduceIsTheExactSumWrapped := by
  intro a n s
  constructor
  · intro hlegal
    rw [exec_reduce_of_legal a s hlegal, reduceTerms_eq_ofInt_exact_sum]
  · exact exec_reduce_of_illegal a s

end Sys2Proof.Machine
end

section
/-! `REQUANT.BF16`: its answer in every state, and the zero sum (45_fxp_to_bf16_requantizer.md R103, R110). -/

namespace Sys2Proof.Machine

/-- `REQUANT.BF16` appends the requantized sum (45_fxp_to_bf16_requantizer.md R110). -/
theorem exec_requantBf16 (a : Anchor) (n : Count) (s : State) :
    exec (.requantBf16 a n) s =
      .next (s.accept ⟨false, 0, (requantBf16 s.inputs.operands.s32 a).setWidth 32⟩) := rfl

/-- Settles O49: the answer is the requantized sum, and the zero branch of the requantizer does not read the anchor. -/
theorem requantOfZeroIsPositiveZero : Obligations.RequantOfZeroIsPositiveZero := by
  intro a n s hzero
  rw [exec_requantBf16, hzero, requantBf16_zero]
  rfl

end Sys2Proof.Machine
end

section
/-! Which commands are illegal, and with which cause: the checks of 60_exceptions.md R115 in their order, and the answer to
each outcome (R116). -/

namespace Sys2Proof.Machine

/-- The numbers of the operations that use `COUNT` (30_encoding.md R48, R49). -/
theorem opUsesCount_iff (op : Nat) : opUsesCount op = true ↔ op = 3 ∨ op = 6 ∨ op = 8 := by
  simp [opUsesCount, or_assoc]

/-! The table of causes, a check at a time, each where the checks before it pass. -/

theorem commandCause_of_reservedOpcode (p : Params) {w : CmdWord} (hop : 9 ≤ (opField w).toNat) :
    commandCause p w = some .reservedOpcode := if_pos hop

theorem commandCause_of_reservedBits (p : Params) {w : CmdWord} (hop : (opField w).toNat < 9)
    (hrsv : rsv0Field w ≠ 0 ∨ rsv1Field w ≠ 0) : commandCause p w = some .reservedBits := by
  rw [commandCause, if_neg (Nat.not_le.2 hop), if_pos hrsv]

theorem commandCause_of_legal_form (p : Params) {w : CmdWord} (hop : (opField w).toNat < 9)
    (hrsv : ¬(rsv0Field w ≠ 0 ∨ rsv1Field w ≠ 0)) :
    commandCause p w =
      if ((opField w).toNat = 3 ∨ (opField w).toNat = 6 ∨ (opField w).toNat = 8) ∧ p.nmax < (countField w).toNat
      then some .countOutOfRange else none := by
  rw [commandCause, if_neg (Nat.not_le.2 hop), if_neg hrsv]
  simp only [opUsesCount_iff]

/-- An accepted command that fails a check is answered with the error response of that check (60_exceptions.md R116). -/
theorem step_of_commandCause_some {s : State} {e : CommandError} (hs : s.handshake = true)
    (hc : commandCause Config.block s.inputs.cmd = some e) : step s = .next (s.accept (errorResponse e)) := by
  rw [acceptingStepAppendsTheBlockResponse s hs, respond, respondWith, hc]

/-- An accepted command that passes every check is answered with its result (10_state.md R28). -/
theorem step_of_commandCause_none {s : State} (hs : s.handshake = true)
    (hc : commandCause Config.block s.inputs.cmd = none) :
    ∃ data : RespData, step s = .next (s.accept (okResponse data)) :=
  ⟨_, by rw [acceptingStepAppendsTheBlockResponse s hs, respond, respondWith, hc]⟩

/-- Settles O8: each clause names an outcome of the table of causes, and the step answers that outcome. -/
theorem illegalCommandGetsItsFirstFailingCause : Obligations.IllegalCommandGetsItsFirstFailingCause := by
  intro s hs
  refine ⟨fun hop => ?opcode, fun hop hrsv => ?reserved, fun hop hrsv hcount => ?count, fun hop hrsv hcount => ?legal⟩
  case opcode => exact step_of_commandCause_some hs (commandCause_of_reservedOpcode _ hop)
  case reserved => exact step_of_commandCause_some hs (commandCause_of_reservedBits _ hop hrsv)
  case count => exact step_of_commandCause_some hs ((commandCause_of_legal_form _ hop hrsv).trans (if_pos hcount))
  case legal => exact step_of_commandCause_none hs ((commandCause_of_legal_form _ hop hrsv).trans (if_neg hcount))

/-- Settles O11: the second half of O20 with the default parameters, for the three operations that use `COUNT`. -/
theorem countOutOfRangeIsAnsweredWithCauseThree : Obligations.CountOutOfRangeIsAnsweredWithCauseThree := by
  intro a n s hn
  have counted : ∀ i : Instr, i.usesCount = true → i.count = n → exec i s = .next (s.accept ⟨true, 3, 0⟩) := by
    rintro i hu rfl
    exact (exec_eq_execWith i s).trans ((everyInstanceBoundsCountByItsNmax Config.block i s).2 hu hn)
  exact ⟨counted _ rfl rfl, counted _ rfl rfl, counted _ rfl rfl⟩

end Sys2Proof.Machine
end

section
/-! The response and time: neither the cause of an error nor a result reads `LATENCY` (70_reset_and_hazards.md R128). -/

namespace Sys2Proof.Machine

/-- The checks of an instance read `NMAX` alone of its parameters (60_exceptions.md R115). -/
theorem commandCause_congr {p q : Params} (hn : p.nmax = q.nmax) (w : CmdWord) : commandCause p w = commandCause q w := by
  unfold commandCause
  rw [hn]

/-- A result reads the two NaN mantissas alone of an instance's parameters, in the two widenings
(40_format_decoder.md R64). -/
theorem resultOf_congr_params {p q : Params} (hf : p.canonNanFp16Mant = q.canonNanFp16Mant)
    (hb : p.canonNanBf16Mant = q.canonNanBf16Mant) (op : Nat) (a : Anchor) (n : Count) (o : Operands) :
    resultOf p op a n o = resultOf q op a n o := by
  unfold resultOf
  rw [hf, hb]

/-- Instances with the same `NMAX` and the same NaN mantissas are one function of a request (10_state.md R28, R29). -/
theorem respondWith_congr_params {p q : Params} (hn : p.nmax = q.nmax)
    (hf : p.canonNanFp16Mant = q.canonNanFp16Mant) (hb : p.canonNanBf16Mant = q.canonNanBf16Mant) (w : CmdWord)
    (o : Operands) : respondWith p w o = respondWith q w o := by
  unfold respondWith
  rw [commandCause_congr hn, resultOf_congr_params hf hb]

/-- Settles O22: each instance appends the response of its pure function (O19), and the two functions are one. -/
theorem latencyDoesNotChangeTheResponse : Obligations.LatencyDoesNotChangeTheResponse := by
  intro p l s hs
  refine ⟨respondWith p s.inputs.cmd s.inputs.operands, everyInstanceAppendsItsResponse p s hs, ?_⟩
  have same : respondWith p s.inputs.cmd s.inputs.operands =
      respondWith { p with latency := l } s.inputs.cmd s.inputs.operands := respondWith_congr_params rfl rfl rfl _ _
  rw [same]
  exact everyInstanceAppendsItsResponse { p with latency := l } s hs

end Sys2Proof.Machine
end

section
/-! Single steps of the block: what a decoded word of the test vectors is, that every step answers a next state, the
frame of an accepted command, the output pins, and reset (10_state.md R19 to R30, 70_reset_and_hazards.md R121). -/

namespace Sys2Proof.Machine

/-- Settles O4: the decoder runs on each of the words. -/
theorem decoderReadsWordsOfTheTestVectors : Obligations.DecoderReadsWordsOfTheTestVectors := by
  unfold Obligations.DecoderReadsWordsOfTheTestVectors
  decide

/-- Settles O9: a step is a reset cycle, a cycle without acceptance, or the acceptance of one request. -/
theorem everyStepAnswersANextState : Obligations.EveryStepAnswersANextState := by
  intro s
  rw [step_eq_stepWith]
  rcases stepWith_cases Config.block s with ⟨-, hreset⟩ | ⟨-, -, hidle⟩ | ⟨-, -, r, -, haccept⟩
  · exact ⟨_, hreset⟩
  · exact ⟨_, hidle⟩
  · exact ⟨_, haccept⟩

/-- Settles O12: a command does nothing but append a response, and the rest of its cycle is that of `State.accept`. -/
theorem acceptedCommandAppendsOneResponse : Obligations.AcceptedCommandAppendsOneResponse := by
  intro i s t h
  obtain ⟨r, -, hexec⟩ := exec_appends i s
  cases hexec.symm.trans h
  refine ⟨s.accept_inputs r, s.accept_cycle r, r, rfl, ?_⟩
  rw [State.accept_fifo, retire_eq_survivors]

/-- The oldest response is presented once its wait is over (10_state.md R27). -/
theorem presented_of_fifo_cons {s : State} {e : InFlight} {rest : List InFlight} (hr : s.inputs.rstN = true)
    (hf : s.fifo = e :: rest) (hw : e.wait = 0) : s.presented = some e.response := by
  simp only [State.presented, hr, hf, hw, if_true]

/-- Settles O28: each output pin is a field of the response presented. -/
theorem outputPinsCarryTheOldestResponse : Obligations.OutputPinsCarryTheOldestResponse := by
  intro s e rest hr hf hw
  have hp := presented_of_fifo_cons hr hf hw
  simp only [State.respValid, State.respErr, State.respCause, State.respData, hp, Option.isSome_some, and_self]

theorem respValid_of_presented_none {s : State} (h : s.presented = none) : s.respValid = false := by
  rw [State.respValid, h, Option.isSome_none]

theorem step_of_reset {s : State} (h : s.inputs.rstN = false) : step s = .next s.resetCycle := by
  simp only [step, cycleOf, h]

/-- Settles O29: the step is a reset cycle, which empties the FIFO, and an empty FIFO presents nothing. -/
theorem resetDiscardsEveryInFlightTransaction : Obligations.ResetDiscardsEveryInFlightTransaction := by
  intro s hr
  refine ⟨respValid_of_presented_none (presented_of_reset s hr), reqReady_of_reset hr, s.resetCycle, step_of_reset hr,
    s.resetCycle_fifo, s.resetCycle_inputs, fun inputs => ?_⟩
  exact respValid_of_presented_none (presented_of_fifo_nil s.resetCycle_fifo)

end Sys2Proof.Machine
end

section
/-! An in-flight transaction is answered in its turn: the cycles of the FIFO as seen from one entry (10_state.md R27,
70_reset_and_hazards.md R128). -/

namespace Sys2Proof.Machine

/-- In a cycle without reset the FIFO loses what was presented, and entries may join it at its end. -/
theorem step_fifo_of_no_reset {s : State} (hr : s.inputs.rstN = true) :
    ∃ (t : State) (entering : List InFlight), step s = .next t ∧ t.fifo = retire s.fifo ++ entering := by
  cases hs : s.handshake with
  | false => exact ⟨s.idle, [], step_of_no_handshake hr hs, by rw [State.idle_fifo, List.append_nil]⟩
  | true => exact ⟨_, _, acceptingStepAppendsTheBlockResponse s hs, State.accept_fifo _ _⟩

/-- An entry that is not presented in a cycle keeps its place behind those accepted before it. -/
theorem retire_append_cons {older newer : List InFlight} {e : InFlight} (h : older = [] → e.wait ≠ 0) :
    retire (older ++ e :: newer) = retire older ++ e.tick :: newer.map InFlight.tick := by
  cases older with
  | nil => exact retire_cons_waiting e newer (h rfl)
  | cons d ds => by_cases hd : d.wait = 0 <;> simp [retire, hd]

/-- In such a cycle, what is presented and what is left of the entries before it are together those entries. -/
theorem presented_append_retire_older {s : State} {older newer : List InFlight} {e : InFlight}
    (hr : s.inputs.rstN = true) (hf : s.fifo = older ++ e :: newer) (h : older = [] → e.wait ≠ 0) :
    s.presented.toList ++ (retire older).map InFlight.response = older.map InFlight.response := by
  have hall := presented_append_retire s hr
  have hticks : (newer.map InFlight.tick).map InFlight.response = newer.map InFlight.response := by
    rw [List.map_map]
    rfl
  rw [hf, retire_append_cons h, List.map_append, List.map_append, List.map_cons, List.map_cons, hticks,
    InFlight.tick_response, ← List.append_assoc] at hall
  exact List.append_cancel_right hall

theorem drainTime_append (xs ys : List InFlight) : drainTime (xs ++ ys) = drainTime xs + drainTime ys := by
  simp only [drainTime, List.map_append, List.sum_append]

theorem drainTime_singleton (e : InFlight) : drainTime [e] = e.wait + 1 := rfl

/-- Such a cycle brings the entry nearer to being presented. -/
theorem drainTime_retire_append_tick_lt {older : List InFlight} {e : InFlight} (h : older = [] → e.wait ≠ 0) :
    drainTime (retire older ++ [e.tick]) < drainTime (older ++ [e]) := by
  rw [drainTime_append, drainTime_append, drainTime_singleton, drainTime_singleton, InFlight.tick_wait]
  cases older with
  | nil =>
    have hw := h rfl
    rw [retire_nil]
    omega
  | cons d ds =>
    have hlt := drainTime_retire_lt (List.cons_ne_nil d ds)
    omega

/-- What is delivered over the first cycles of a sequence of inputs, its first cycle taken apart. -/
theorem deliveredIn_range_succ (input : Nat → Inputs) (n : Nat) {s u : State}
    (h : step (s.drive (input 0)) = .next u) :
    deliveredIn ((List.range (n + 1)).map input) s =
      (s.drive (input 0)).presented.toList ++ deliveredIn ((List.range n).map fun k => input (k + 1)) u := by
  rw [List.range_succ_eq_map, List.map_cons, List.map_map]
  simp only [deliveredIn, h]
  rfl

/-- Settles O27, by induction on the cycles for which the entry and those before it stay in the FIFO at most. -/
theorem inFlightTransactionIsEventuallyAnswered : Obligations.InFlightTransactionIsEventuallyAnswered := by
  intro input s older newer e
  induction hb : drainTime (older ++ [e]) using Nat.strong_induction_on generalizing input s older newer e with
  | _ bound ih =>
    intro hheld hf
    by_cases hdue : older = [] ∧ e.wait = 0
    case pos =>
      obtain ⟨rfl, hw⟩ := hdue
      exact ⟨0, s, rfl, rfl, presented_of_fifo_cons (s := s.drive (input 0)) (hheld 0) hf hw⟩
    case neg =>
      have hwaits : older = [] → e.wait ≠ 0 := fun ho hw => hdue ⟨ho, hw⟩
      obtain ⟨u, entering, hstep, hu⟩ := step_fifo_of_no_reset (s := s.drive (input 0)) (hheld 0)
      rw [State.drive_fifo, hf, retire_append_cons hwaits, List.append_assoc, List.cons_append] at hu
      obtain ⟨n, t, hrun, hdelivered, hpresented⟩ :=
        ih _ (hb ▸ drainTime_retire_append_tick_lt hwaits) (fun k => input (k + 1)) u _ _ _ rfl
          (fun k => hheld (k + 1)) hu
      refine ⟨n + 1, t, (runCycles_range_succ input n hstep).trans hrun, ?_, hpresented⟩
      rw [deliveredIn_range_succ input n hstep, hdelivered]
      exact presented_append_retire_older (s := s.drive (input 0)) (hheld 0) hf hwaits

end Sys2Proof.Machine
end

section
/-! The order of operands, terms and lane pairs does not matter (41_fp16_multiplier.md R78,
44_fixed_point_accumulator.md R102, 46_mac_composite.md R113). -/

namespace Sys2Proof.Machine

theorem mulProduct_comm (u v : Unpacked) : mulProduct u v = mulProduct v u := Nat.mul_comm _ _

theorem mulExp_comm (u v : Unpacked) : mulExp u v = mulExp v u := by
  rw [mulExp, mulExp, mulProduct_comm, add_comm ((u.ef : Int) - 15)]

/-- Settles O40: the sign, the zero check, the product of the significands and the sum of the exponents are symmetric.
-/
theorem mulIsCommutative : Obligations.MulIsCommutative := by
  intro x y
  by_cases h : (decFp16 x).ef = 0 ∨ (decFp16 y).ef = 0
  · rw [mulFp16_of_ef_zero h, mulFp16_of_ef_zero h.symm, Bool.xor_comm]
  · rw [mulFp16_of_ef_ne_zero h, mulFp16_of_ef_ne_zero fun h' => h h'.symm, Bool.xor_comm, mulProduct_comm, mulExp_comm]

/-- Patterns are added without regard to their order (44_fixed_point_accumulator.md R102). -/
theorem reduceTerms_perm {terms terms' : List Fxp} (h : terms.Perm terms') (addend : Fxp) :
    reduceTerms terms addend = reduceTerms terms' addend := by
  rw [reduceTerms_eq_add_sum, reduceTerms_eq_add_sum, h.sum_eq]

/-- Settles O48: both states are answered with the sum of the same patterns. -/
theorem reduceIgnoresTheOrderOfTerms : Obligations.ReduceIgnoresTheOrderOfTerms := by
  intro a n s t hn hperm hs32
  refine ⟨_, exec_reduce_of_legal a s hn, ?_⟩
  rw [exec_reduce_of_legal a t hn, reduceTerms_perm hperm, hs32]

/-- A running maximum does not depend on the order (42_anchor_exponent_selector.md R82). -/
theorem maxExp_perm {products products' : List Fp16} (h : products.Perm products') (c : E4M3) :
    maxExp products c = maxExp products' c :=
  h.foldl_eq' (fun p _ q _ m => max_right_comm m (productExp p) (productExp q)) _

theorem selectAnchor_perm {products products' : List Fp16} (h : products.Perm products') (c : E4M3) :
    selectAnchor products c = selectAnchor products' c := by
  rw [selectAnchor, selectAnchor, maxExp_perm h, h.length_eq]

/-- The products of permuted pairs are the permuted products. -/
theorem macProducts_perm {va vb va' vb' : List Fp16} (h : (va.zip vb).Perm (va'.zip vb')) :
    (macProducts va vb).Perm (macProducts va' vb') := by
  have key (xs ys : List Fp16) : macProducts xs ys = (xs.zip ys).map fun pair => mulFp16 pair.1 pair.2 :=
    (List.map_uncurry_zip_eq_zipWith (f := mulFp16)).symm
  rw [key, key]
  exact h.map _

theorem macBf16_perm {va vb va' vb' : List Fp16} (h : (va.zip vb).Perm (va'.zip vb')) (c : E4M3) :
    macBf16 va vb c = macBf16 va' vb' c := by
  have hproducts := macProducts_perm h
  have hanchor : macAnchor va vb c = macAnchor va' vb' c := selectAnchor_perm hproducts c
  have hsum : macSum va vb c = macSum va' vb' c := by
    simp only [macSum, hanchor, reduceTerms_perm (hproducts.map _)]
  rw [macBf16, macBf16, hanchor, hsum]

/-- `MAC` with a legal count appends the dot product (46_mac_composite.md R112). -/
theorem exec_mac_of_legal (a : Anchor) {n : Count} (s : State) (h : n.toNat ≤ Config.nmax) :
    exec (.mac a n) s = .next (s.accept ⟨false, 0, (macBf16 (s.inputs.operands.va.toList.take n.toNat)
      (s.inputs.operands.vb.toList.take n.toNat) s.inputs.operands.c8).setWidth 32⟩) :=
  congrArg Host.Outcome.next (acceptCounted_of_legal Config.block s n _ h)

/-- Settles O55: both states are answered with the dot product of the same pairs. -/
theorem macIgnoresTheOrderOfPairs : Obligations.MacIgnoresTheOrderOfPairs := by
  intro a n s t hn hperm hc
  refine ⟨_, exec_mac_of_legal a s hn, ?_⟩
  rw [exec_mac_of_legal a t hn, macBf16_perm hperm, hc]

end Sys2Proof.Machine
end

section
/-! `SEL.ANCHOR`: the anchor as a number, with its clamp (42_anchor_exponent_selector.md R81 to R85). -/

namespace Sys2Proof.Machine

/-- `SEL.ANCHOR` with a legal count appends the anchor (42_anchor_exponent_selector.md R85). -/
theorem exec_selAnchor_of_legal (a : Anchor) {n : Count} (s : State) (h : n.toNat ≤ Config.nmax) :
    exec (.selAnchor a n) s = .next (s.accept ⟨false, 0,
      (selectAnchor (s.inputs.operands.va.toList.take n.toNat) s.inputs.operands.c8).setWidth 32⟩) :=
  congrArg Host.Outcome.next (acceptCounted_of_legal Config.block s n _ h)

/-- The clamped anchor fits its 8 bits (42_anchor_exponent_selector.md R84). -/
theorem selectAnchor_toNat_eq_clamp (products : List Fp16) (c : E4M3) :
    ((selectAnchor products c).toNat : Int) = clamp (maxExp products c + headroom products.length) 0 255 := by
  rw [selectAnchor, BitVec.toNat_ofNat, clamp]
  omega

theorem productExp_bounds (p : Fp16) : -15 ≤ productExp p ∧ productExp p ≤ 16 := by
  have := decFp16_ef_lt p
  unfold productExp
  omega

theorem addendExp_bounds (c : E4M3) : -7 ≤ addendExp c ∧ addendExp c ≤ 8 := by
  have := decE4M3_ef_lt c
  unfold addendExp
  omega

/-- The maximum is an integer in `-7..16` (42_anchor_exponent_selector.md R82). -/
theorem maxExp_bounds (products : List Fp16) (c : E4M3) : -7 ≤ maxExp products c ∧ maxExp products c ≤ 16 := by
  obtain ⟨hattained, hinit, -⟩ := foldl_max_spec productExp products (addendExp c)
  obtain ⟨hlow, hhigh⟩ := addendExp_bounds c
  refine ⟨hlow.trans hinit, ?_⟩
  rcases hattained with h | ⟨p, -, h⟩
  · exact h.trans_le (hhigh.trans (by decide))
  · exact h.trans_le (productExp_bounds p).2

/-- The upper clamp never takes effect (42_anchor_exponent_selector.md R84). -/
theorem maxExp_add_headroom_le {products : List Fp16} (c : E4M3) (hn : products.length ≤ Config.laneBound) :
    maxExp products c + headroom products.length ≤ 23 := by
  have hmax := (maxExp_bounds products c).2
  have hroom := (headroom_bounds hn).2
  omega

/-- The anchors of a batch that fits the buses (42_anchor_exponent_selector.md R84). -/
theorem selectAnchor_le {products : List Fp16} (c : E4M3) (hn : products.length ≤ Config.laneBound) :
    (selectAnchor products c).toNat ≤ 23 := by
  have hclamp := selectAnchor_toNat_eq_clamp products c
  have hle := maxExp_add_headroom_le c hn
  unfold clamp at hclamp
  omega

theorem take_length_le_laneBound {w : Nat} (v : Vector (BitVec w) Config.laneBound) (n : Count) :
    (v.toList.take n.toNat).length ≤ Config.laneBound :=
  (List.length_take_le' _ _).trans_eq v.length_toList

/-- Settles O41: what the running maximum is, the clamp, and the headroom in its first form. -/
theorem selAnchorIsTheMaximumPlusHeadroom : Obligations.SelAnchorIsTheMaximumPlusHeadroom := by
  intro a n s hn products ofProduct ofAddend
  have hlen : products.length = n.toNat := lanesUsed_length s.inputs.operands.va n
  obtain ⟨hattained, hinit, hbound⟩ := foldl_max_spec productExp products (addendExp s.inputs.operands.c8)
  obtain ⟨hlow, hhigh⟩ := maxExp_bounds products s.inputs.operands.c8
  refine ⟨maxExp products s.inputs.operands.c8, _, exec_selAnchor_of_legal a s hn, hattained, hinit, hbound, hlow,
    hhigh, ?_, selectAnchor_le _ (take_length_le_laneBound _ n)⟩
  rw [selectAnchor_toNat_eq_clamp, clamp, hlen, headroom_eq_clog]

end Sys2Proof.Machine
end

section
/-! `MAC` by separate transactions: what each response of the sequence carries (46_mac_composite.md R113 part 4). -/

namespace Sys2Proof.Machine

theorem mulRequest_half (a b : Fp16) : (mulRequest a b).response.half = mulFp16 a b := by
  rw [mulRequest, response_encode (.mulFp16 0 0) nofun, resultOf_mulFp16]
  exact setWidth_data16 _

theorem alignFp16Request_data (p : Fp16) (anchor : Anchor) :
    (alignFp16Request p anchor).response.data = alignFp16 p anchor := by
  rw [alignFp16Request, response_encode (.alignFp16 anchor 0) nofun, resultOf_alignFp16]
  rfl

theorem alignE4M3Request_data (c : E4M3) (anchor : Anchor) :
    (alignE4M3Request c anchor).response.data = alignE4M3 c anchor := by
  rw [alignE4M3Request, response_encode (.alignE4M3 anchor 0) nofun, resultOf_alignE4M3]
  rfl

theorem requantRequest_response (sum : Fxp) (anchor : Anchor) :
    (requantRequest sum anchor).response = okResponse (data16 (requantBf16 sum anchor)) := by
  rw [requantRequest, response_encode (.requantBf16 anchor 0) nofun, resultOf_requantBf16]
  rfl

/-- A batch in range is counted by a legal `COUNT`. -/
theorem count_of_length_le {n : Nat} (h : n ≤ Config.nmax) : (BitVec.ofNat 6 n).toNat ≤ Config.nmax := by
  rw [BitVec.toNat_ofNat]
  exact (Nat.mod_le _ _).trans h

theorem selRequest_anchor {products : List Fp16} (c : E4M3) (h : products.length ≤ Config.nmax) :
    (selRequest products c).response.anchor = selectAnchor products c := by
  have hlanes := lanesUsed_lanesOfList (h.trans (by decide : Config.nmax ≤ Config.laneBound))
  rw [selRequest, response_encode (.selAnchor 0 (BitVec.ofNat 6 products.length)) fun _ => count_of_length_le h,
    resultOf_selAnchor, Instr.count, hlanes]
  exact setWidth_data8 _

theorem reduceRequest_data {terms : List Fxp} (addend : Fxp) (h : terms.length ≤ Config.nmax) :
    (reduceRequest terms addend).response.data = reduceTerms terms addend := by
  have hlanes := lanesUsed_lanesOfList (h.trans (by decide : Config.nmax ≤ Config.laneBound))
  rw [reduceRequest, response_encode (.reduce 0 (BitVec.ofNat 6 terms.length)) fun _ => count_of_length_le h,
    resultOf_reduce, Instr.count, hlanes]
  rfl

theorem macProducts_length_le {va vb : List Fp16} {n : Nat} (h : va.length ≤ n) : (macProducts va vb).length ≤ n := by
  rw [macProducts, List.length_zipWith]
  exact (Nat.min_le_left _ _).trans h

/-- The sequence's final response carries the dot product (46_mac_composite.md R113 part 4). -/
theorem macBySequence_eq {va vb : List Fp16} (c : E4M3) (h : va.length ≤ Config.nmax) :
    macBySequence va vb c = okResponse (data16 (macBf16 va vb c)) := by
  have hproducts : List.zipWith (fun a b => (mulRequest a b).response.half) va vb = macProducts va vb := by
    simp only [mulRequest_half]
    rfl
  have hlen : (macProducts va vb).length ≤ Config.nmax := macProducts_length_le h
  simp only [macBySequence, hproducts, selRequest_anchor c hlen, alignFp16Request_data, alignE4M3Request_data]
  rw [reduceRequest_data _ (by rwa [List.length_map]), requantRequest_response]
  rfl

/-- Settles O54: both answers carry the dot product. -/
theorem macEqualsTheSequenceOfTransactions : Obligations.MacEqualsTheSequenceOfTransactions := by
  intro a n s hn
  rw [exec_mac_of_legal a s hn, macBySequence_eq _ ((List.length_take_le _ _).trans hn)]
  rfl

end Sys2Proof.Machine
end

section
/-! Alignment in frame units: the aligned value as a sign and a magnitude, the magnitude as a floor, and the frame's
truncation (43_fxp_aligner_pipeline.md R87 to R99). -/

namespace Sys2Proof.Machine

@[simp] theorem withSign_zero (sign : Bool) : withSign sign 0 = 0 := by cases sign <;> rfl

/-- A magnitude with a sign bit applied, as a product. -/
theorem withSign_cast (sign : Bool) (mag : Int) :
    ((withSign sign mag : Int) : ℚ) = (if sign then -1 else 1) * (mag : ℚ) := by
  cases sign <;> simp [withSign]

theorem abs_withSign {mag : Int} (sign : Bool) (h : 0 ≤ mag) : |withSign sign mag| = mag := by
  cases sign <;> simp [withSign, abs_of_nonneg h]

theorem abs_sign_mul (sign : Bool) (q : ℚ) : |(if sign then -1 else 1) * q| = |q| := by cases sign <;> simp

theorem alignMag_zero (shift : Int) : alignMag 0 shift = 0 := by simp [alignMag]

/-- A right shift truncates (43_fxp_aligner_pipeline.md R92). -/
theorem alignMag_of_right (sig : Nat) {n : Nat} (h : n < 32) : alignMag sig n = sig / 2 ^ n := by
  rw [alignMag, if_neg (by omega), if_pos (by omega), Nat.shiftRight_eq_div_pow, Int.toNat_natCast]

/-- A left shift keeps the low 32 bits (43_fxp_aligner_pipeline.md R93). -/
theorem alignMag_of_left (sig : Nat) {shift : Int} (hl : -31 ≤ shift) (hu : shift < 0) :
    alignMag sig shift = sig * 2 ^ (-shift).toNat % 2 ^ 32 := by
  rw [alignMag, if_neg (by omega), if_neg (by omega), if_pos hl, Nat.shiftLeft_eq]

/-- A magnitude that fits 32 bits is the shifted significand without its fraction (43_fxp_aligner_pipeline.md R90 to
R94). -/
theorem alignMag_eq_floor {sig : Nat} {shift : Int} (hsig : sig < 2 ^ 32)
    (hfits : (sig : ℚ) * 2 ^ (-shift) < 2 ^ 32) : (alignMag sig shift : Int) = ⌊(sig : ℚ) * 2 ^ (-shift)⌋ := by
  rcases lt_or_ge shift 0 with hneg | hpos
  · obtain ⟨n, hn⟩ : ∃ n : Nat, -shift = n := ⟨(-shift).toNat, by omega⟩
    have hcast : (sig : ℚ) * 2 ^ (-shift) = ((sig * 2 ^ n : Nat) : ℚ) := by
      rw [hn, zpow_natCast]
      push_cast
      rfl
    rw [hcast] at hfits ⊢
    have hlt : sig * 2 ^ n < 2 ^ 32 := by exact_mod_cast hfits
    rw [Int.floor_natCast, Nat.cast_inj]
    by_cases hwin : -31 ≤ shift
    · rw [alignMag_of_left sig hwin hneg, hn, Int.toNat_natCast, Nat.mod_eq_of_lt hlt]
    · have hpow : 2 ^ 32 ≤ 2 ^ n := Nat.pow_le_pow_right (by decide) (by omega)
      have hzero : sig = 0 := by
        by_contra h0
        exact absurd (hpow.trans (Nat.le_mul_of_pos_left _ (Nat.pos_of_ne_zero h0))) (Nat.not_le.2 hlt)
      rw [hzero, alignMag_zero, Nat.zero_mul]
  · obtain ⟨n, rfl⟩ := Int.eq_ofNat_of_zero_le hpos
    have hcast : (sig : ℚ) * 2 ^ (-(n : Int)) = (sig : ℚ) / ((2 ^ n : Nat) : ℚ) := by
      rw [zpow_neg, zpow_natCast, div_eq_mul_inv]
      push_cast
      rfl
    rw [hcast, Rat.floor_natCast_div_natCast]
    by_cases hwin : n < 32
    · rw [alignMag_of_right sig hwin]
      push_cast
      rfl
    · have hpow : 2 ^ 32 ≤ 2 ^ n := Nat.pow_le_pow_right (by decide) (by omega)
      rw [alignMag_of_outside sig (.inl (by omega)), ← Int.natCast_div, Nat.div_eq_of_lt (hsig.trans_le hpow)]

/-- The aligned value is the magnitude with the sign applied after, wrapped; for a zero too
(43_fxp_aligner_pipeline.md R89, R95). -/
theorem alignFields_eq_ofInt (f : FloatFormat) (u : Unpacked) (anchor : Nat) :
    alignFields f u anchor =
      BitVec.ofInt 32 (withSign u.sign (alignMag (significand f u) (alignShift f u anchor))) := by
  by_cases hzero : u.ef = 0 ∧ u.mf = 0
  · have hsig : significand f u = 0 := by rw [significand, if_pos hzero.1, hzero.2]
    rw [alignFields_of_zero f anchor hzero, hsig, alignMag_zero, Nat.cast_zero, withSign_zero]
    rfl
  · rw [alignFields, if_neg hzero]
    exact u32_wrap32 _

/-- A number of a format in units of a frame is its significand, shifted (43_fxp_aligner_pipeline.md R87, R90). -/
theorem frameUnits_literalValue (f : FloatFormat) (u : Unpacked) (a : Anchor) :
    frameUnits (literalValue f u) a = significand f u * (2 : ℚ) ^ (-alignShift f u a.toNat) := by
  have hexp : -alignShift f u a.toNat = (unbiasedExp f u - f.fracBits) + (31 - (a.toNat : Int)) := by
    unfold alignShift
    ring
  rw [frameUnits, literalValue, mul_assoc, abs_sign_mul, abs_of_nonneg (by positivity), hexp,
    zpow_add₀ two_ne_zero, mul_assoc]

theorem frameUnits_nonneg (x : ℚ) (a : Anchor) : 0 ≤ frameUnits x a := by
  unfold frameUnits
  positivity

/-- A number of a format is its frame units, with its sign, times the frame's unit (43_fxp_aligner_pipeline.md R87). -/
theorem literalValue_eq_frameUnits (f : FloatFormat) (u : Unpacked) (a : Anchor) :
    literalValue f u =
      (if u.sign then -1 else 1) * frameUnits (literalValue f u) a * (2 : ℚ) ^ ((a.toNat : Int) - 31) := by
  have hexp : unbiasedExp f u - f.fracBits = -alignShift f u a.toNat + ((a.toNat : Int) - 31) := by
    unfold alignShift
    ring
  rw [frameUnits_literalValue, literalValue, hexp, zpow_add₀ two_ne_zero]
  ring

section
variable {f : FloatFormat} {u : Unpacked} {a : Anchor} (hsig : significand f u < 2 ^ 32)
  (hfits : frameUnits (literalValue f u) a < 2 ^ 31)
include hsig hfits

/-- What fits the frame is truncated toward zero, and the sign is applied after (43_fxp_aligner_pipeline.md R92, R95).
-/
theorem alignFields_toInt :
    (alignFields f u a.toNat).toInt = withSign u.sign ⌊frameUnits (literalValue f u) a⌋ := by
  have hunits := frameUnits_literalValue f u a
  have hwide : frameUnits (literalValue f u) a < 2 ^ 32 := hfits.trans (by norm_num)
  have hlow : 0 ≤ ⌊frameUnits (literalValue f u) a⌋ := Int.floor_nonneg.2 (frameUnits_nonneg _ a)
  have hhigh : ⌊frameUnits (literalValue f u) a⌋ < 2 ^ 31 := Int.floor_lt.2 (by exact_mod_cast hfits)
  have hbits := abs_lt.1 ((abs_withSign u.sign hlow).trans_lt hhigh)
  rw [alignFields_eq_ofInt, alignMag_eq_floor hsig (hunits ▸ hwide), ← hunits]
  exact u32_toInt _ hbits.1.le hbits.2

/-- The number that an aligned value stands for in its frame. -/
theorem frameValue_alignFields :
    frameValue (alignFields f u a.toNat) a =
      (if u.sign then -1 else 1) * (⌊frameUnits (literalValue f u) a⌋ : ℚ) * (2 : ℚ) ^ ((a.toNat : Int) - 31) := by
  rw [frameValue, alignFields_toInt hsig hfits, withSign_cast]

/-- Truncation loses less than one frame unit (43_fxp_aligner_pipeline.md R99). -/
theorem abs_literalValue_sub_frameValue_lt :
    |literalValue f u - frameValue (alignFields f u a.toNat) a| < (2 : ℚ) ^ ((a.toNat : Int) - 31) := by
  have hunit : (0 : ℚ) < 2 ^ ((a.toNat : Int) - 31) := by positivity
  have hlost : literalValue f u - frameValue (alignFields f u a.toNat) a =
      (if u.sign then -1 else 1) * (Int.fract (frameUnits (literalValue f u) a) * 2 ^ ((a.toNat : Int) - 31)) := by
    rw [frameValue_alignFields hsig hfits, Int.fract, sub_mul, mul_sub, ← mul_assoc, ← mul_assoc,
      ← literalValue_eq_frameUnits]
  rw [hlost, abs_sign_mul, abs_mul, abs_of_pos hunit, Int.abs_fract]
  exact mul_lt_of_lt_one_left hunit (Int.fract_lt_one _)

/-- Without a right shift nothing is lost (43_fxp_aligner_pipeline.md R93, R98). -/
theorem frameValue_alignFields_of_shift_nonpos (hshift : alignShift f u a.toNat ≤ 0) :
    frameValue (alignFields f u a.toNat) a = literalValue f u := by
  obtain ⟨n, hn⟩ : ∃ n : Nat, -alignShift f u a.toNat = n := ⟨(-alignShift f u a.toNat).toNat, by omega⟩
  have hwhole : frameUnits (literalValue f u) a = ((significand f u * 2 ^ n : Nat) : ℚ) := by
    rw [frameUnits_literalValue, hn, zpow_natCast]
    push_cast
    rfl
  have hfloor : (⌊frameUnits (literalValue f u) a⌋ : ℚ) = frameUnits (literalValue f u) a := by
    rw [hwhole, Int.floor_natCast, Int.cast_natCast]
  rw [frameValue_alignFields hsig hfits, hfloor, ← literalValue_eq_frameUnits]

end

theorem significand_decFp16_lt (x : Fp16) : significand fp16Format (decFp16 x) < 2 ^ 32 :=
  (significand_lt fp16Format _ (decFp16_mf_lt x)).trans (by decide)

theorem significand_decE4M3_lt (x : E4M3) : significand e4m3Format (decE4M3 x) < 2 ^ 32 :=
  (significand_lt e4m3Format _ (decE4M3_mf_lt x)).trans (by decide)

/-- Settles O43: each operation answers the aligned value, which is the truncated one if it fits. -/
theorem alignTruncatesTowardZeroInTheFrame : Obligations.AlignTruncatesTowardZeroInTheFrame := fun a n s =>
  ⟨fun hfits => ⟨_, exec_alignFp16 a n s, alignFields_toInt (significand_decFp16_lt _) hfits⟩,
    fun hfits => ⟨_, exec_alignE4M3 a n s, alignFields_toInt (significand_decE4M3_lt _) hfits⟩⟩

/-- Cutting a magnitude to 32 bits before its sign is applied does not change the pattern. -/
theorem ofInt_withSign_emod (sign : Bool) (m : Nat) :
    BitVec.ofInt 32 (withSign sign ((m % 2 ^ 32 : Nat) : Int)) = BitVec.ofInt 32 (withSign sign m) := by
  have hcut : BitVec.ofInt 32 ((m % 2 ^ 32 : Nat) : Int) = BitVec.ofInt 32 (m : Int) := by
    refine BitVec.eq_of_toNat_eq ?_
    rw [BitVec.ofInt_natCast, BitVec.ofInt_natCast, BitVec.toNat_ofNat, BitVec.toNat_ofNat, Nat.mod_mod]
  cases sign with
  | false => exact hcut
  | true => exact (BitVec.ofInt_neg).trans ((congrArg Neg.neg hcut).trans BitVec.ofInt_neg.symm)

/-- A left shift by at most 31 in any format (43_fxp_aligner_pipeline.md R93, R95). -/
theorem alignFields_of_left {f : FloatFormat} {u : Unpacked} {anchor : Nat} (hl : -31 ≤ alignShift f u anchor)
    (hu : alignShift f u anchor < 0) :
    alignFields f u anchor =
      BitVec.ofInt 32 (withSign u.sign (significand f u * 2 ^ (-alignShift f u anchor).toNat)) := by
  rw [alignFields_eq_ofInt, alignMag_of_left _ hl hu, ofInt_withSign_emod]
  push_cast
  rfl

theorem significand_cast (f : FloatFormat) (u : Unpacked) :
    (significand f u : Int) = if u.ef = 0 then (u.mf : Int) else 2 ^ f.fracBits + u.mf := by
  unfold significand
  split <;> push_cast <;> rfl

/-- Settles O45: each operation answers the aligned value, whose shift and significand are the ones stated with the
format's own bias and fraction bits. -/
theorem alignLeftShiftKeepsTheLowBits : Obligations.AlignLeftShiftKeepsTheLowBits := by
  intro a n s u v shiftU shiftV sigU sigV
  have hsigU : (significand fp16Format u : Int) = sigU := significand_cast fp16Format u
  have hsigV : (significand e4m3Format v : Int) = sigV := significand_cast e4m3Format v
  constructor
  · intro hl hu
    rw [exec_alignFp16, ← hsigU]
    exact congrArg (fun t => Host.Outcome.next (s.accept ⟨false, 0, t⟩)) (alignFields_of_left (f := fp16Format) hl hu)
  · intro hl hu
    rw [exec_alignE4M3, ← hsigV]
    exact congrArg (fun t => Host.Outcome.next (s.accept ⟨false, 0, t⟩)) (alignFields_of_left (f := e4m3Format) hl hu)

/-- The least exponent of a format is that of its subnormals (40_format_decoder.md R60). -/
theorem one_sub_bias_le_unbiasedExp (f : FloatFormat) (u : Unpacked) : 1 - (f.bias : Int) ≤ unbiasedExp f u := by
  unfold unbiasedExp
  split <;> omega

/-- At anchor 0 the finest bit of a format with `bias + fracBits ≤ 32` is a whole number of frame units
(43_fxp_aligner_pipeline.md R98). -/
theorem frameValue_alignFields_zero {f : FloatFormat} {u : Unpacked} (hf : f.bias + f.fracBits ≤ 32)
    (hsig : significand f u < 2 ^ 32) (h : |literalValue f u| < 1 / 4) :
    frameValue (alignFields f u 0) 0 = literalValue f u := by
  have hfits : frameUnits (literalValue f u) 0 < 2 ^ 31 := by
    have hunits : frameUnits (literalValue f u) 0 = |literalValue f u| * 2 ^ 31 := rfl
    rw [hunits]
    linarith
  have hexp := one_sub_bias_le_unbiasedExp f u
  refine frameValue_alignFields_of_shift_nonpos (a := 0) hsig hfits ?_
  show (f.fracBits : Int) + (0 : Nat) - 31 - unbiasedExp f u ≤ 0
  omega

/-- Settles O46: neither format has a bit below `2^-31`. -/
theorem alignAtAnchorZeroIsExactBelowAQuarter : Obligations.AlignAtAnchorZeroIsExactBelowAQuarter :=
  ⟨fun x h => frameValue_alignFields_zero (by decide) (significand_decFp16_lt x) h,
    fun x h => frameValue_alignFields_zero (by decide) (significand_decE4M3_lt x) h⟩

end Sys2Proof.Machine
end

section
/-! The headroom property: terms aligned with the anchor selected for them neither wrap nor are cut, and their sum is
exact (42_anchor_exponent_selector.md R86). -/

namespace Sys2Proof.Machine

/-- A number of a format is below the next power of two of its term exponent, for a subnormal too
(42_anchor_exponent_selector.md R81, R86). -/
theorem abs_literalValue_lt (f : FloatFormat) {u : Unpacked} (hmf : u.mf < 2 ^ f.fracBits) :
    |literalValue f u| < (2 : ℚ) ^ ((u.ef : Int) - f.bias + 1) := by
  have hfrac : (2 : ℚ) ^ (f.fracBits : Int) = 2 ^ f.fracBits := zpow_natCast _ _
  have hmfQ : (u.mf : ℚ) < 2 ^ f.fracBits := by exact_mod_cast hmf
  by_cases he : u.ef = 0
  · have hexp : (u.ef : Int) - f.bias + 1 = f.fracBits + (1 - f.bias - f.fracBits) := by
      rw [he]
      ring
    rw [literalValue_of_ef_zero f he, mul_assoc, abs_sign_mul, abs_of_nonneg (by positivity), hexp,
      zpow_add₀ two_ne_zero, hfrac]
    exact mul_lt_mul_of_pos_right hmfQ (by positivity)
  · have hexp : (u.ef : Int) - f.bias + 1 = 1 + f.fracBits + (u.ef - f.bias - f.fracBits) := by ring
    rw [literalValue_of_ef_ne_zero f he, mul_assoc, abs_sign_mul, abs_of_nonneg (by positivity), hexp,
      zpow_add₀ two_ne_zero, zpow_add₀ two_ne_zero, hfrac]
    exact mul_lt_mul_of_pos_right (by linarith) (by positivity)

section
variable {f : FloatFormat} {u : Unpacked} {a : Anchor} {h : Nat} (hmf : u.mf < 2 ^ f.fracBits) (h1 : 1 ≤ h)
  (h32 : h ≤ 32) (hanchor : (u.ef : Int) - f.bias + h ≤ a.toNat)
include hmf hanchor

/-- A term takes at most `32 - h` bits of a frame whose anchor is `h` above its exponent. -/
theorem frameUnits_lt_of_headroom (h32 : h ≤ 32) : frameUnits (literalValue f u) a < 2 ^ (32 - h) := by
  have hexp : ((32 - h : Nat) : Int) = (32 - h) := by omega
  calc frameUnits (literalValue f u) a
    _ = |literalValue f u| * 2 ^ (31 - (a.toNat : Int)) := rfl
    _ < 2 ^ ((u.ef : Int) - f.bias + 1) * 2 ^ (31 - (a.toNat : Int)) :=
      mul_lt_mul_of_pos_right (abs_literalValue_lt f hmf) (by positivity)
    _ = 2 ^ ((u.ef : Int) - f.bias + 1 + (31 - a.toNat)) := (zpow_add₀ two_ne_zero _ _).symm
    _ ≤ 2 ^ (((32 - h : Nat) : Int)) := zpow_le_zpow_right₀ (by norm_num) (by omega)
    _ = 2 ^ (32 - h) := zpow_natCast _ _

include h1

theorem frameUnits_lt_of_headroom_pos (h32 : h ≤ 32) : frameUnits (literalValue f u) a < 2 ^ 31 :=
  (frameUnits_lt_of_headroom hmf hanchor h32).trans_le (pow_le_pow_right₀ (by norm_num) (by omega))

include h32

/-- The aligned value takes no more bits than the exact one. -/
theorem abs_alignFields_toInt_lt (hsig : significand f u < 2 ^ 32) :
    |(alignFields f u a.toNat).toInt| < 2 ^ (32 - h) := by
  have hlow : 0 ≤ ⌊frameUnits (literalValue f u) a⌋ := Int.floor_nonneg.2 (frameUnits_nonneg _ a)
  rw [alignFields_toInt hsig (frameUnits_lt_of_headroom_pos hmf h1 hanchor h32), abs_withSign _ hlow, Int.floor_lt]
  exact_mod_cast frameUnits_lt_of_headroom hmf hanchor h32

/-- Neither the wrap of a left shift nor the upper end of the window is reached (43_fxp_aligner_pipeline.md R93, R94).
-/
theorem alignShift_in_window :
    -31 ≤ alignShift f u a.toNat ∧
      (alignShift f u a.toNat < 0 → significand f u * 2 ^ (-alignShift f u a.toNat).toNat < 2 ^ 32) := by
  constructor
  · unfold alignShift unbiasedExp
    split <;> omega
  · intro hneg
    have hunits := frameUnits_lt_of_headroom_pos hmf h1 hanchor h32
    have hexp : -alignShift f u a.toNat = ((-alignShift f u a.toNat).toNat : Int) := by omega
    rw [frameUnits_literalValue, hexp, zpow_natCast] at hunits
    have hlt : significand f u * 2 ^ (-alignShift f u a.toNat).toNat < 2 ^ 31 := by exact_mod_cast hunits
    omega

end

theorem abs_sum_le_sum_abs_of_list (xs : List Int) : |xs.sum| ≤ (xs.map abs).sum := by
  induction xs with
  | nil => simp
  | cons x xs ih =>
    rw [List.sum_cons, List.map_cons, List.sum_cons]
    exact (abs_add_le x xs.sum).trans (by omega)

/-- A sum of terms whose magnitudes together fit 31 bits does not wrap (44_fixed_point_accumulator.md R100). -/
theorem reduceTerms_toInt {terms : List Fxp} {addend : Fxp}
    (h : |addend.toInt| + (terms.map fun t => |t.toInt|).sum < 2 ^ 31) :
    (reduceTerms terms addend).toInt = addend.toInt + (terms.map BitVec.toInt).sum := by
  have hterms := abs_sum_le_sum_abs_of_list (terms.map BitVec.toInt)
  rw [List.map_map] at hterms
  have hall : |addend.toInt + (terms.map BitVec.toInt).sum| < 2 ^ 31 :=
    (abs_add_le _ _).trans_lt ((Int.add_le_add_left hterms _).trans_lt h)
  rw [reduceTerms_eq_ofInt_exact_sum]
  exact u32_toInt _ (abs_lt.1 hall).1.le (abs_lt.1 hall).2

section
variable {products : List Fp16} {c : E4M3} (hn : products.length ≤ Config.laneBound)
include hn

/-- The clamp only raises the anchor (42_anchor_exponent_selector.md R84). -/
theorem maxExp_add_headroom_le_selectAnchor :
    maxExp products c + headroom products.length ≤ (selectAnchor products c).toNat := by
  have hle := maxExp_add_headroom_le c hn
  rw [selectAnchor_toNat_eq_clamp, clamp]
  omega

theorem productExp_add_headroom_le {p : Fp16} (hp : p ∈ products) :
    productExp p + headroom products.length ≤ (selectAnchor products c).toNat :=
  (Int.add_le_add_right ((foldl_max_spec productExp products (addendExp c)).2.2 p hp) _).trans
    (maxExp_add_headroom_le_selectAnchor hn)

theorem addendExp_add_headroom_le : addendExp c + headroom products.length ≤ (selectAnchor products c).toNat :=
  (Int.add_le_add_right (foldl_max_spec productExp products (addendExp c)).2.1 _).trans
    (maxExp_add_headroom_le_selectAnchor hn)

/-- Every product fits the frame of the selected anchor. -/
theorem frameUnits_product_lt {p : Fp16} (hp : p ∈ products) :
    frameUnits (literalFp16 p) (selectAnchor products c) < 2 ^ 31 :=
  frameUnits_lt_of_headroom_pos (decFp16_mf_lt p) (headroom_bounds hn).1 (productExp_add_headroom_le hn hp)
    ((headroom_bounds hn).2.trans (by decide))

/-- The addend fits the frame of the selected anchor. -/
theorem frameUnits_addend_lt : frameUnits (literalE4M3 c) (selectAnchor products c) < 2 ^ 31 :=
  frameUnits_lt_of_headroom_pos (decE4M3_mf_lt c) (headroom_bounds hn).1 (addendExp_add_headroom_le hn)
    ((headroom_bounds hn).2.trans (by decide))

theorem abs_alignFp16_selectAnchor_lt {p : Fp16} (hp : p ∈ products) :
    |(alignFp16 p (selectAnchor products c)).toInt| < 2 ^ (32 - headroom products.length) :=
  abs_alignFields_toInt_lt (decFp16_mf_lt p) (headroom_bounds hn).1 ((headroom_bounds hn).2.trans (by decide))
    (productExp_add_headroom_le hn hp) (significand_decFp16_lt p)

theorem abs_alignE4M3_selectAnchor_lt :
    |(alignE4M3 c (selectAnchor products c)).toInt| < 2 ^ (32 - headroom products.length) :=
  abs_alignFields_toInt_lt (decE4M3_mf_lt c) (headroom_bounds hn).1 ((headroom_bounds hn).2.trans (by decide))
    (addendExp_add_headroom_le hn) (significand_decE4M3_lt c)

omit hn in
/-- `N + 1` magnitudes that leave the headroom free are together below `2^31` (42_anchor_exponent_selector.md R83,
R86). -/
theorem succ_mul_pred_lt {n : Nat} (hroom : headroom n ≤ 32) :
    ((n : Int) + 1) * (2 ^ (32 - headroom n) - 1) < 2 ^ 31 := by
  have hclog : n + 1 ≤ 2 ^ Nat.clog 2 (n + 1) := Nat.le_pow_clog (by norm_num) _
  have hbits : Nat.clog 2 (n + 1) + (32 - headroom n) = 31 := by
    rw [headroom_eq_clog] at hroom ⊢
    omega
  have hprod : (n + 1) * 2 ^ (32 - headroom n) ≤ 2 ^ 31 :=
    (Nat.mul_le_mul_right _ hclog).trans_eq (by rw [← pow_add, hbits])
  have hprodZ : ((n : Int) + 1) * 2 ^ (32 - headroom n) ≤ 2 ^ 31 := by exact_mod_cast hprod
  rw [mul_sub]
  omega

/-- The magnitudes of a batch's aligned terms are together below `2^31` (42_anchor_exponent_selector.md R86). -/
theorem sum_abs_aligned_lt :
    |(alignE4M3 c (selectAnchor products c)).toInt| +
      (products.map fun p => |(alignFp16 p (selectAnchor products c)).toInt|).sum < 2 ^ 31 := by
  have haddend := abs_alignE4M3_selectAnchor_lt (c := c) hn
  have hterms : (products.map fun p => |(alignFp16 p (selectAnchor products c)).toInt|).sum ≤
      products.length • (2 ^ (32 - headroom products.length) - 1 : Int) := by
    refine (List.sum_le_card_nsmul _ _ fun t ht => ?_).trans_eq (by rw [List.length_map])
    obtain ⟨p, hp, rfl⟩ := List.mem_map.1 ht
    exact Int.le_sub_one_of_lt (abs_alignFp16_selectAnchor_lt hn hp)
  have hroom := succ_mul_pred_lt ((headroom_bounds hn).2.trans (by decide))
  rw [nsmul_eq_mul] at hterms
  rw [add_mul, one_mul] at hroom
  omega

/-- The accumulator's sum of a batch's aligned terms is exact (42_anchor_exponent_selector.md R86). -/
theorem reduceTerms_aligned_toInt :
    (reduceTerms (products.map (alignFp16 · (selectAnchor products c))) (alignE4M3 c (selectAnchor products c))).toInt =
      (alignE4M3 c (selectAnchor products c)).toInt +
        (products.map fun p => (alignFp16 p (selectAnchor products c)).toInt).sum := by
  have hexact := reduceTerms_toInt (terms := products.map (alignFp16 · (selectAnchor products c)))
    (addend := alignE4M3 c (selectAnchor products c)) (by
      rw [List.map_map]
      exact sum_abs_aligned_lt hn)
  rw [hexact, List.map_map]
  rfl

end

/-- Settles O42: the anchor is the headroom above each term's exponent, so each term leaves the headroom free, and the
headroom holds the sum of all terms. -/
theorem selectedAnchorPreventsOverflow : Obligations.SelectedAnchorPreventsOverflow := by
  intro products c hn anchor h fits
  have hroom : headroom products.length = h := headroom_eq_clog _
  obtain ⟨hlow, hhigh⟩ := headroom_bounds hn
  have h32 : headroom products.length ≤ 32 := hhigh.trans (by decide)
  refine ⟨fun p hp => ⟨?_, ?_⟩, ?_, ?_, sum_abs_aligned_lt hn, reduceTerms_aligned_toInt hn⟩
  · exact hroom ▸ abs_alignFp16_selectAnchor_lt hn hp
  · exact alignShift_in_window (decFp16_mf_lt p) hlow h32 (productExp_add_headroom_le hn hp)
  · exact hroom ▸ abs_alignE4M3_selectAnchor_lt hn
  · exact alignShift_in_window (decE4M3_mf_lt c) hlow h32 (addendExp_add_headroom_le hn)

end Sys2Proof.Machine
end

section
/-! Rounding to nearest, ties to even, in any format: a magnitude in units of its last place, the integer it rounds
to, the carry into the exponent, and why no other pattern is nearer (41_fp16_multiplier.md R73 to R75,
45_fxp_to_bf16_requantizer.md R107, R108). -/

namespace Sys2Proof.Machine

/-- The integer `r` is the magnitude `x` rounded to nearest, ties to even, where `x` is in units of its last place: it
has `p` bits below its leading 1. -/
structure RoundsToEven (p : Nat) (x : ℚ) (r : Nat) : Prop where
  low : 2 ^ p ≤ x
  high : x < 2 ^ (p + 1)
  near : |(r : ℚ) - x| ≤ 1 / 2
  even_of_tie : |(r : ℚ) - x| = 1 / 2 → r % 2 = 0

/-- A whole magnitude rounds to itself. -/
theorem RoundsToEven.of_exact {p r : Nat} (hlow : 2 ^ p ≤ r) (hhigh : r < 2 ^ (p + 1)) : RoundsToEven p r r where
  low := by exact_mod_cast hlow
  high := by exact_mod_cast hhigh
  near := by norm_num
  even_of_tie h := by norm_num at h

/-- The quotient by a power of two rounded to nearest, ties to even: what the multiplier and the requantizer do with the
bits below the kept ones; tied to them by `mulRound_eq` and `requantRound_eq`. -/
def roundedQuotient (n d : Nat) : Nat :=
  if 2 ^ (d - 1) < n % 2 ^ d ∨ (n % 2 ^ d = 2 ^ (d - 1) ∧ n / 2 ^ d % 2 = 1) then n / 2 ^ d + 1 else n / 2 ^ d

/-- Twice the distance of the rounded quotient from the number is at most the divisor, and the divisor only if it is
even. -/
theorem roundedQuotient_spec (n : Nat) {d : Nat} (hd : 1 ≤ d) :
    |2 * ((roundedQuotient n d : Int) * 2 ^ d - n)| ≤ 2 ^ d ∧
      (|2 * ((roundedQuotient n d : Int) * 2 ^ d - n)| = 2 ^ d → roundedQuotient n d % 2 = 0) := by
  obtain ⟨k, rfl⟩ := Nat.exists_eq_add_of_le' hd
  have hdiv : (2 : Int) ^ (k + 1) * ((n / 2 ^ (k + 1) : Nat) : Int) + ((n % 2 ^ (k + 1) : Nat) : Int) = n := by
    exact_mod_cast Nat.div_add_mod n (2 ^ (k + 1))
  have hrem : ((n % 2 ^ (k + 1) : Nat) : Int) < 2 ^ (k + 1) := by
    exact_mod_cast Nat.mod_lt n (Nat.two_pow_pos (k + 1))
  have hnonneg : (0 : Int) ≤ ((n % 2 ^ (k + 1) : Nat) : Int) := Int.natCast_nonneg _
  have hhalf : (2 : Int) ^ (k + 1) = 2 * ((2 ^ k : Nat) : Int) := by
    push_cast
    ring
  rw [roundedQuotient, Nat.add_sub_cancel]
  generalize n % 2 ^ (k + 1) = rem at *
  generalize n / 2 ^ (k + 1) = q at *
  generalize 2 ^ k = half at *
  split
  next hup =>
    have hdist : 2 * (((q + 1 : Nat) : Int) * 2 ^ (k + 1) - n) = 2 * (2 ^ (k + 1) - rem) := by
      rw [← hdiv]
      push_cast
      ring
    rw [hdist, abs_of_nonneg (by omega)]
    omega
  next hdown =>
    have hdist : 2 * ((q : Int) * 2 ^ (k + 1) - n) = -(2 * rem) := by
      rw [← hdiv]
      ring
    rw [hdist, abs_neg, abs_of_nonneg (by omega)]
    omega

/-- The rounded quotient is what the exact quotient rounds to. -/
theorem RoundsToEven.of_quotient {p n d : Nat} (hd : 1 ≤ d) (hlow : 2 ^ (p + d) ≤ n) (hhigh : n < 2 ^ (p + 1 + d)) :
    RoundsToEven p ((n : ℚ) / 2 ^ d) (roundedQuotient n d) := by
  obtain ⟨hnear, htie⟩ := roundedQuotient_spec n hd
  have hpos : (0 : ℚ) < 2 ^ d := by positivity
  have hdist : |(roundedQuotient n d : ℚ) - n / 2 ^ d| * (2 * 2 ^ d) =
      ((|2 * ((roundedQuotient n d : Int) * 2 ^ d - n)| : Int) : ℚ) := by
    have hscale : (roundedQuotient n d : ℚ) * 2 ^ d - n = (roundedQuotient n d - n / 2 ^ d) * 2 ^ d := by
      rw [sub_mul, div_mul_cancel₀ _ hpos.ne']
    push_cast
    rw [hscale, abs_mul, abs_mul, abs_of_pos hpos, abs_two]
    ring
  refine ⟨?_, ?_, ?_, fun h => htie ?_⟩
  · rw [le_div_iff₀ hpos, ← pow_add]
    exact_mod_cast hlow
  · rw [div_lt_iff₀ hpos, ← pow_add]
    exact_mod_cast hhigh
  · have hnearQ : ((|2 * ((roundedQuotient n d : Int) * 2 ^ d - n)| : Int) : ℚ) ≤ 2 ^ d := by exact_mod_cast hnear
    rw [← hdist] at hnearQ
    refine le_of_mul_le_mul_right (hnearQ.trans_eq ?_) (by positivity : (0 : ℚ) < 2 * 2 ^ d)
    ring
  · rw [h] at hdist
    have hdistQ : ((|2 * ((roundedQuotient n d : Int) * 2 ^ d - n)| : Int) : ℚ) = 2 ^ d := by
      rw [← hdist]
      ring
    exact_mod_cast hdistQ

section
variable {p r : Nat} {x : ℚ} (h : RoundsToEven p x r)
include h

/-- No other integer is nearer, and none is as near unless the rounded one is even. -/
theorem RoundsToEven.near_int (k : Int) :
    |(r : ℚ) - x| ≤ |(k : ℚ) - x| ∧ ((k : ℚ) ≠ r → |(r : ℚ) - x| = |(k : ℚ) - x| → r % 2 = 0) := by
  by_cases hk : k = r
  · subst hk
    exact ⟨le_rfl, fun hne => absurd rfl hne⟩
  · have hone : (1 : ℚ) ≤ |(k : ℚ) - r| := by
      exact_mod_cast Int.one_le_abs (sub_ne_zero.2 hk)
    have htri : |(k : ℚ) - r| ≤ |(k : ℚ) - x| + |(r : ℚ) - x| := by
      rw [abs_sub_comm (r : ℚ) x]
      exact abs_sub_le _ _ _
    have hnear := h.near
    exact ⟨by linarith, fun _ heq => h.even_of_tie (by linarith)⟩

/-- Nor is any number below the leading bit: the power of two at that bit lies between. -/
theorem RoundsToEven.near_below {z : ℚ} (hz : |z| < 2 ^ p) : |(r : ℚ) - x| < |z - x| := by
  have hpow : ((2 ^ p : Int) : ℚ) = 2 ^ p := by push_cast; rfl
  have hleast := (h.near_int (2 ^ p)).1
  have hlow := h.low
  have hbelow := (abs_lt.1 hz).2
  rw [hpow, abs_sub_comm (2 ^ p) x, abs_of_nonneg (sub_nonneg.2 hlow)] at hleast
  rw [abs_sub_comm z x, abs_of_pos (by linarith : (0 : ℚ) < x - z)]
  linarith

/-- The rounded integer has the leading bit where the magnitude has it, or is the next power of two. -/
theorem RoundsToEven.bounds : 2 ^ p ≤ r ∧ r ≤ 2 ^ (p + 1) := by
  obtain ⟨hlow, hhigh⟩ := abs_le.1 h.near
  have hl := h.low
  have hh := h.high
  have hlQ : ((2 ^ p : Nat) : ℚ) < r + 1 := by push_cast; linarith
  have hhQ : (r : ℚ) < ((2 ^ (p + 1) : Nat) : ℚ) + 1 := by push_cast; linarith
  exact ⟨Nat.lt_succ_iff.1 (by exact_mod_cast hlQ), Nat.lt_succ_iff.1 (by exact_mod_cast hhQ)⟩

/-- The rounding carries from half a unit below the next power of two on: the tie there goes up. -/
theorem RoundsToEven.carry_iff : r = 2 ^ (p + 1) ↔ 2 ^ (p + 1) - 1 / 2 ≤ x := by
  obtain ⟨hlow, hhigh⟩ := abs_le.1 h.near
  constructor
  · rintro rfl
    push_cast at hhigh
    linarith
  · intro hx
    refine le_antisymm h.bounds.2 (Nat.not_lt.1 fun hlt => ?_)
    have hrQ : (r : ℚ) + 1 ≤ 2 ^ (p + 1) := by exact_mod_cast hlt
    have htie : |(r : ℚ) - x| = 1 / 2 := by
      rw [abs_sub_comm, abs_of_nonneg (by linarith)]
      linarith
    have hodd : r + 1 = 2 ^ (p + 1) := by
      have hsucc : (r : ℚ) + 1 = 2 ^ (p + 1) := by linarith
      exact_mod_cast hsucc
    have heven := h.even_of_tie htie
    rw [pow_succ] at hodd
    omega

end

/-- Any number of a format is a whole number of units `2^e`, or below the least number with a leading bit there. -/
theorem literalValue_on_grid (f : FloatFormat) {u : Unpacked} (hmf : u.mf < 2 ^ f.fracBits) (e : Int) :
    |literalValue f u| < 2 ^ f.fracBits * 2 ^ e ∨ ∃ k : Int, literalValue f u = k * 2 ^ e := by
  rcases le_or_gt e (unbiasedExp f u - f.fracBits) with hfine | hcoarse
  · obtain ⟨n, hn⟩ := Int.eq_ofNat_of_zero_le (sub_nonneg.2 hfine)
    refine .inr ⟨(if u.sign then -1 else 1) * (significand f u * 2 ^ n : Nat), ?_⟩
    rw [literalValue, eq_add_of_sub_eq hn, zpow_add₀ two_ne_zero, zpow_natCast]
    cases u.sign <;> (push_cast; ring)
  · refine .inl ?_
    have hsig : (significand f u : ℚ) < 2 ^ f.fracBits * 2 := by
      rw [← pow_succ]
      exact_mod_cast significand_lt f u hmf
    have hunit : (2 : ℚ) ^ (unbiasedExp f u - f.fracBits) * 2 ≤ 2 ^ e := by
      rw [← zpow_add_one₀ two_ne_zero]
      exact zpow_le_zpow_right₀ (by norm_num) (by omega)
    have hpos : (0 : ℚ) < 2 ^ (unbiasedExp f u - f.fracBits) := by positivity
    calc |literalValue f u|
      _ = significand f u * 2 ^ (unbiasedExp f u - f.fracBits) := by
        rw [literalValue, mul_assoc, abs_sign_mul, abs_of_nonneg (by positivity)]
      _ < 2 ^ f.fracBits * 2 * 2 ^ (unbiasedExp f u - f.fracBits) := mul_lt_mul_of_pos_right hsig hpos
      _ = 2 ^ f.fracBits * (2 ^ (unbiasedExp f u - f.fracBits) * 2) := by ring
      _ ≤ 2 ^ f.fracBits * 2 ^ e := mul_le_mul_of_nonneg_left hunit (by positivity)

/-- A pattern whose number is the rounded magnitude, in its units and with its sign, is nearest among all of the format,
and has an even mantissa field where another one is as near. -/
theorem RoundsToEven.nearest {f : FloatFormat} {v : Unpacked} {x : ℚ} {r : Nat} {sign : Bool} {e : Int}
    (h : RoundsToEven f.fracBits x r) (hv : literalValue f v = (if sign then -1 else 1) * (r * 2 ^ e))
    (heven : v.mf % 2 = r % 2) {u : Unpacked} (hmf : u.mf < 2 ^ f.fracBits) :
    |literalValue f v - (if sign then -1 else 1) * (x * 2 ^ e)| ≤
        |literalValue f u - (if sign then -1 else 1) * (x * 2 ^ e)| ∧
      (literalValue f u ≠ literalValue f v →
        |literalValue f v - (if sign then -1 else 1) * (x * 2 ^ e)| =
          |literalValue f u - (if sign then -1 else 1) * (x * 2 ^ e)| → v.mf % 2 = 0) := by
  have hunit : (0 : ℚ) < 2 ^ e := by positivity
  have hdist (m : ℚ) : |(if sign then -1 else 1) * (m * 2 ^ e) - (if sign then -1 else 1) * (x * 2 ^ e)| =
      |m - x| * 2 ^ e := by
    rw [← mul_sub, abs_sign_mul, ← sub_mul, abs_mul, abs_of_pos hunit]
  obtain ⟨z, hz⟩ : ∃ z : ℚ, literalValue f u = (if sign then -1 else 1) * (z * 2 ^ e) := by
    refine ⟨(if sign then -1 else 1) * literalValue f u / 2 ^ e, ?_⟩
    rw [div_mul_cancel₀ _ hunit.ne']
    cases sign <;> simp
  rw [heven, hv, hz, hdist, hdist, mul_le_mul_iff_of_pos_right hunit, mul_left_inj' hunit.ne']
  rcases literalValue_on_grid f hmf e with hbelow | ⟨k, hk⟩
  · rw [hz, abs_sign_mul, abs_mul, abs_of_pos hunit, mul_lt_mul_iff_of_pos_right hunit] at hbelow
    have hlt := h.near_below hbelow
    exact ⟨hlt.le, fun _ heq => absurd heq hlt.ne⟩
  · obtain ⟨j, rfl⟩ : ∃ j : Int, z = j := by
      refine ⟨if sign then -k else k, mul_right_cancel₀ hunit.ne' ?_⟩
      rw [hk] at hz
      cases sign with
      | false => simpa using hz.symm
      | true =>
        have hneg : (k : ℚ) * 2 ^ e = -(z * 2 ^ e) := by simpa using hz
        simp [hneg]
    obtain ⟨hle, htie⟩ := h.near_int j
    refine ⟨hle, fun hne => htie fun hj => hne ?_⟩
    rw [hj]

/-- The exponent after rounding: a mantissa of `2^fb` is a carry (41_fp16_multiplier.md R74,
45_fxp_to_bf16_requantizer.md R108). -/
def carryExp (fb m : Nat) (e : Int) : Int := if m = 2 ^ fb then e + 1 else e

/-- The mantissa field after rounding. -/
def carryMant (fb m : Nat) : Nat := if m = 2 ^ fb then 0 else m

theorem carryMant_lt {fb m : Nat} (h : m ≤ 2 ^ fb) : carryMant fb m < 2 ^ fb := by
  have := Nat.two_pow_pos fb
  unfold carryMant
  split <;> omega

/-- A carry of a format with a mantissa leaves an even field, as the rounded integer is. -/
theorem carryMant_mod_two {fb : Nat} (hfb : fb ≠ 0) (m : Nat) : carryMant fb m % 2 = (2 ^ fb + m) % 2 := by
  obtain ⟨k, rfl⟩ := Nat.exists_eq_succ_of_ne_zero hfb
  unfold carryMant
  rw [Nat.succ_eq_add_one, pow_succ]
  split <;> omega

/-- The fields after rounding are the rounded integer in its units. -/
theorem literalValue_carry (f : FloatFormat) (sign : Bool) {m : Nat} {e : Int}
    (hpos : 1 ≤ carryExp f.fracBits m e) :
    literalValue f ⟨sign, (carryExp f.fracBits m e).toNat, carryMant f.fracBits m⟩ =
      (if sign then -1 else 1) * (((2 ^ f.fracBits + m : Nat) : ℚ) * 2 ^ (e - f.bias - f.fracBits)) := by
  have hne : (carryExp f.fracBits m e).toNat ≠ 0 := by omega
  rw [literalValue_of_ef_ne_zero f hne, Int.toNat_of_nonneg (by omega), mul_assoc]
  congr 1
  unfold carryExp carryMant
  split
  next hm =>
    have hexp : e + 1 - f.bias - f.fracBits = e - f.bias - f.fracBits + 1 := by ring
    rw [hm, hexp, zpow_add_one₀ two_ne_zero]
    push_cast
    ring
  next => push_cast; rfl

/-- The exponent after rounding reaches a bound exactly if the magnitude reaches the number halfway between the last one
below that exponent and the first one with it. -/
theorem RoundsToEven.le_carryExp_iff {fb m : Nat} {x : ℚ} (h : RoundsToEven fb x (2 ^ fb + m)) (e b c : Int) :
    b ≤ carryExp fb m e ↔ ((2 : ℚ) ^ (fb + 1) - 1 / 2) * 2 ^ (b - 1 - c) ≤ x * 2 ^ (e - c) := by
  have hcarry : m = 2 ^ fb ↔ (2 : ℚ) ^ (fb + 1) - 1 / 2 ≤ x := by
    rw [← h.carry_iff, pow_succ]
    omega
  have hlow := h.low
  have hhigh := h.high
  have hunit : (0 : ℚ) < 2 ^ (e - c) := by positivity
  have hpow : (1 : ℚ) ≤ 2 ^ fb := one_le_pow₀ (by norm_num)
  have hsucc : (2 : ℚ) ^ (fb + 1) = 2 * 2 ^ fb := pow_succ' _ _
  have hhalf : (0 : ℚ) < 2 ^ (fb + 1) - 1 / 2 := by linarith
  rcases lt_trichotomy b (e + 1) with hb | hb | hb
  · refine iff_of_true ?_ ?_
    · unfold carryExp
      split <;> omega
    · have hunits : (2 : ℚ) ^ (b - 1 - c) * 2 ≤ 2 ^ (e - c) := by
        rw [← zpow_add_one₀ two_ne_zero]
        exact zpow_le_zpow_right₀ (by norm_num) (by omega)
      calc ((2 : ℚ) ^ (fb + 1) - 1 / 2) * 2 ^ (b - 1 - c)
        _ ≤ 2 * 2 ^ fb * 2 ^ (b - 1 - c) := mul_le_mul_of_nonneg_right (by linarith) (by positivity)
        _ = 2 ^ fb * (2 ^ (b - 1 - c) * 2) := by ring
        _ ≤ x * 2 ^ (e - c) := mul_le_mul hlow hunits (by positivity) (by linarith)
  · have hexp : b - 1 - c = e - c := by omega
    rw [hexp, mul_le_mul_iff_of_pos_right hunit, ← hcarry, hb, carryExp]
    split
    next hm => exact iff_of_true le_rfl hm
    next hm => exact iff_of_false (by omega) hm
  · refine iff_of_false ?_ (not_le.2 ?_)
    · unfold carryExp
      split <;> omega
    · have hunits : (2 : ℚ) ^ (e - c) * 2 ≤ 2 ^ (b - 1 - c) := by
        rw [← zpow_add_one₀ two_ne_zero]
        exact zpow_le_zpow_right₀ (by norm_num) (by omega)
      calc x * 2 ^ (e - c)
        _ < 2 ^ (fb + 1) * 2 ^ (e - c) := mul_lt_mul_of_pos_right hhigh hunit
        _ ≤ ((2 ^ (fb + 1) - 1 / 2) * 2) * 2 ^ (e - c) := mul_le_mul_of_nonneg_right (by linarith) hunit.le
        _ = (2 ^ (fb + 1) - 1 / 2) * (2 ^ (e - c) * 2) := by ring
        _ ≤ (2 ^ (fb + 1) - 1 / 2) * 2 ^ (b - 1 - c) := mul_le_mul_of_nonneg_left hunits hhalf.le

/-- The class of fields in range with an exponent field that is neither 0 nor all ones (40_format_decoder.md R58). -/
theorem classOf_normal {emax : Nat} {u : Unpacked} (h0 : u.ef ≠ 0) (hmax : u.ef ≠ emax) : classOf emax u = .normal := by
  rw [classOf, if_neg h0, if_neg hmax]

end Sys2Proof.Machine
end

section
/-! `MUL.FP16` as a rounding: the product of the significands, its leading bit, and the range of the result
(41_fp16_multiplier.md R70 to R79). -/

namespace Sys2Proof.Machine

/-- The product of two 11-bit significands with their leading 1s (41_fp16_multiplier.md R71). -/
theorem mulProduct_bounds (x y : Fp16) :
    2 ^ 20 ≤ mulProduct (decFp16 x) (decFp16 y) ∧ mulProduct (decFp16 x) (decFp16 y) < 2 ^ 22 := by
  have hx := decFp16_mf_lt x
  have hy := decFp16_mf_lt y
  have hlow : 1024 * 1024 ≤ mulProduct (decFp16 x) (decFp16 y) :=
    Nat.mul_le_mul (Nat.le_add_right _ _) (Nat.le_add_right _ _)
  have hhigh : mulProduct (decFp16 x) (decFp16 y) < 2048 * 2048 :=
    Nat.mul_lt_mul'' (Nat.add_lt_add_left hx 1024) (Nat.add_lt_add_left hy 1024)
  exact ⟨hlow, hhigh⟩

section
variable {n : Nat} (hlow : 2 ^ 20 ≤ n) (hhigh : n < 2 ^ 22)
include hlow hhigh

/-- Bit 21 tells which of the two top bits leads (41_fp16_multiplier.md R72). -/
theorem testBit_21_iff : n.testBit 21 = true ↔ 2 ^ 21 ≤ n := by
  rw [Nat.testBit_eq_decide_div_mod_eq, decide_eq_true_iff]
  omega

/-- The shift brings the leading bit to the implicit-bit position (41_fp16_multiplier.md R72). -/
theorem mulShift_spec : (1 ≤ mulShift n ∧ 2 ^ (10 + mulShift n) ≤ n ∧ n < 2 ^ (10 + 1 + mulShift n)) ∧
    (mulShift n : Int) = 10 + if n.testBit 21 then 1 else 0 := by
  have hbit := testBit_21_iff hlow hhigh
  unfold mulShift
  cases hb : n.testBit 21 with
  | false =>
    rw [hb, iff_false_left Bool.false_ne_true] at hbit
    exact ⟨⟨by decide, hlow, by simpa using hbit⟩, rfl⟩
  | true => exact ⟨⟨by decide, hbit.1 hb, hhigh⟩, rfl⟩

/-- The ten mantissa bits with their implicit 1 are the rounded quotient (41_fp16_multiplier.md R73). -/
theorem mulRound_eq : 2 ^ 10 + mulRound n = roundedQuotient n (mulShift n) := by
  obtain ⟨⟨-, hl, hh⟩, -⟩ := mulShift_spec hlow hhigh
  have hquot : n / 2 ^ mulShift n = 2 ^ 10 + n / 2 ^ mulShift n % 1024 := by
    have hlq : 2 ^ 10 ≤ n / 2 ^ mulShift n :=
      (Nat.le_div_iff_mul_le (Nat.two_pow_pos _)).2 (by rwa [← pow_add])
    have hhq : n / 2 ^ mulShift n < 2 ^ (10 + 1) := Nat.div_lt_of_lt_mul (by rwa [← pow_add, Nat.add_comm])
    omega
  simp only [mulRound, roundedQuotient, Nat.shiftRight_eq_div_pow]
  generalize n / 2 ^ mulShift n = q at *
  have hparity : q % 1024 % 2 = q % 2 := Nat.mod_mod_of_dvd q (by decide)
  rw [hparity]
  split <;> omega

/-- The product is rounded to nearest, ties to even (41_fp16_multiplier.md R73). -/
theorem mulRound_roundsToEven :
    RoundsToEven fp16Format.fracBits ((n : ℚ) / 2 ^ mulShift n) (2 ^ fp16Format.fracBits + mulRound n) := by
  obtain ⟨⟨h1, hl, hh⟩, -⟩ := mulShift_spec hlow hhigh
  show RoundsToEven 10 _ (2 ^ 10 + mulRound n)
  rw [mulRound_eq hlow hhigh]
  exact RoundsToEven.of_quotient h1 hl hh

end

/-- The product's biased exponent before rounding (41_fp16_multiplier.md R71, R72). -/
def mulBiasedExp (x y : Fp16) : Int := mulExp (decFp16 x) (decFp16 y) + 15

/-- The magnitude that the multiplier rounds, in units of its last place. -/
def mulMagnitude (x y : Fp16) : ℚ :=
  (mulProduct (decFp16 x) (decFp16 y) : ℚ) / 2 ^ mulShift (mulProduct (decFp16 x) (decFp16 y))

section
variable (x y : Fp16)

theorem mulMagnitude_roundsToEven :
    RoundsToEven fp16Format.fracBits (mulMagnitude x y)
      (2 ^ fp16Format.fracBits + mulRound (mulProduct (decFp16 x) (decFp16 y))) :=
  mulRound_roundsToEven (mulProduct_bounds x y).1 (mulProduct_bounds x y).2

theorem mulRound_le : mulRound (mulProduct (decFp16 x) (decFp16 y)) ≤ 2 ^ fp16Format.fracBits := by
  have hle := (mulMagnitude_roundsToEven x y).bounds.2
  rw [pow_succ] at hle
  omega

/-- The fields of the rounded product, before the range checks (41_fp16_multiplier.md R74). -/
def mulFields : Unpacked :=
  ⟨xor (decFp16 x).sign (decFp16 y).sign,
    (carryExp fp16Format.fracBits (mulRound (mulProduct (decFp16 x) (decFp16 y))) (mulBiasedExp x y)).toNat,
    carryMant fp16Format.fracBits (mulRound (mulProduct (decFp16 x) (decFp16 y)))⟩

variable {x y} (hx : (decFp16 x).ef ≠ 0) (hy : (decFp16 y).ef ≠ 0)
include hx hy

/-- The exact product is the magnitude in its units, with its sign (41_fp16_multiplier.md R71). -/
theorem literalFp16_mul :
    literalFp16 x * literalFp16 y =
      (if xor (decFp16 x).sign (decFp16 y).sign then -1 else 1) *
        (mulMagnitude x y * 2 ^ (mulBiasedExp x y - fp16Format.bias - fp16Format.fracBits)) := by
  obtain ⟨-, hshift⟩ := mulShift_spec (mulProduct_bounds x y).1 (mulProduct_bounds x y).2
  have hexp : mulBiasedExp x y - fp16Format.bias - fp16Format.fracBits =
      mulShift (mulProduct (decFp16 x) (decFp16 y)) +
        (((decFp16 x).ef - fp16Format.bias - fp16Format.fracBits) +
          ((decFp16 y).ef - fp16Format.bias - fp16Format.fracBits)) := by
    rw [hshift, mulBiasedExp, mulExp]
    simp only [fp16Format]
    push_cast
    ring
  have hsign : (if xor (decFp16 x).sign (decFp16 y).sign then -1 else 1 : ℚ) =
      (if (decFp16 x).sign then -1 else 1) * (if (decFp16 y).sign then -1 else 1) := by
    cases (decFp16 x).sign <;> cases (decFp16 y).sign <;> norm_num
  rw [literalFp16, literalFp16, literalValue_of_ef_ne_zero _ hx, literalValue_of_ef_ne_zero _ hy, hsign, hexp,
    zpow_add₀ two_ne_zero, zpow_add₀ two_ne_zero, zpow_natCast, mulMagnitude, ← mul_assoc (_ / _) (2 ^ _),
    div_mul_cancel₀ _ (by positivity), mulProduct]
  simp only [fp16Format]
  push_cast
  ring

/-- The multiplier packs the rounded product, or flushes or saturates it by its exponent (41_fp16_multiplier.md R75). -/
theorem mulFp16_eq_mulPack :
    mulFp16 x y = mulPack (xor (decFp16 x).sign (decFp16 y).sign)
      (carryExp fp16Format.fracBits (mulRound (mulProduct (decFp16 x) (decFp16 y))) (mulBiasedExp x y))
      (carryMant fp16Format.fracBits (mulRound (mulProduct (decFp16 x) (decFp16 y)))) := by
  have hnorm : ¬((decFp16 x).ef = 0 ∨ (decFp16 y).ef = 0) := not_or.2 ⟨hx, hy⟩
  rw [mulFp16_of_ef_ne_zero hnorm, carryExp, carryMant, mulBiasedExp]
  by_cases hm : mulRound (mulProduct (decFp16 x) (decFp16 y)) = 2 ^ fp16Format.fracBits
  · rw [if_pos hm, if_pos hm, if_pos (show _ = 1024 from hm), add_right_comm]
  · rw [if_neg hm, if_neg hm, if_neg (show ¬_ = 1024 from hm)]

/-- When the exponent after rounding reaches a bound, in terms of the exact product. -/
theorem le_mul_carryExp_iff (b : Int) :
    b ≤ carryExp fp16Format.fracBits (mulRound (mulProduct (decFp16 x) (decFp16 y))) (mulBiasedExp x y) ↔
      ((2 : ℚ) ^ (fp16Format.fracBits + 1) - 1 / 2) * 2 ^ (b - 1 - (fp16Format.bias + fp16Format.fracBits)) ≤
        |literalFp16 x * literalFp16 y| := by
  have hmag : 0 ≤ mulMagnitude x y := (by positivity : (0 : ℚ) ≤ 2 ^ fp16Format.fracBits).trans
    (mulMagnitude_roundsToEven x y).low
  have hexp : mulBiasedExp x y - fp16Format.bias - fp16Format.fracBits =
      mulBiasedExp x y - (fp16Format.bias + fp16Format.fracBits) := sub_sub _ _ _
  rw [literalFp16_mul hx hy, abs_sign_mul, abs_of_nonneg (by positivity), hexp]
  exact (mulMagnitude_roundsToEven x y).le_carryExp_iff _ _ (fp16Format.bias + fp16Format.fracBits)

/-- Above the flush, the fields of the rounded product are nearest to the exact one. -/
theorem mulFields_nearest (hpos : 1 ≤ carryExp fp16Format.fracBits (mulRound (mulProduct (decFp16 x) (decFp16 y)))
    (mulBiasedExp x y)) {u : Unpacked} (hmf : u.mf < 2 ^ fp16Format.fracBits) :
    |literalValue fp16Format (mulFields x y) - literalFp16 x * literalFp16 y| ≤
        |literalValue fp16Format u - literalFp16 x * literalFp16 y| ∧
      (literalValue fp16Format u ≠ literalValue fp16Format (mulFields x y) →
        |literalValue fp16Format (mulFields x y) - literalFp16 x * literalFp16 y| =
          |literalValue fp16Format u - literalFp16 x * literalFp16 y| → (mulFields x y).mf % 2 = 0) := by
  rw [literalFp16_mul hx hy]
  exact (mulMagnitude_roundsToEven x y).nearest (literalValue_carry fp16Format _ hpos)
    (carryMant_mod_two (by decide) _) hmf

end

/-- In range, the packed pattern has the fields packed (41_fp16_multiplier.md R75). -/
theorem mulPack_of_range (sign : Bool) {eb : Int} (m : Nat) (h1 : 1 ≤ eb) (h30 : eb < 31) :
    mulPack sign eb m = encFp16 sign eb.toNat m := by
  rw [mulPack, if_neg (by omega), if_neg (by omega)]

theorem classFp16_encFp16_zero (sign : Bool) : classFp16 (encFp16 sign 0 0) = .zero := by cases sign <;> rfl
theorem classFp16_encFp16_inf (sign : Bool) : classFp16 (encFp16 sign 31 0) = .inf := by cases sign <;> rfl

theorem classFp16_encFp16_normal (sign : Bool) {ef m : Nat} (h1 : ef ≠ 0) (h30 : ef < 31) (hm : m < 1024) :
    classFp16 (encFp16 sign ef m) = .normal := by
  rw [classFp16, decFp16_encFp16 sign ef m (by omega) hm]
  exact classOf_normal h1 h30.ne

/-- What the multiplier packs is a signed zero, a normal pattern or a signed infinity (41_fp16_multiplier.md R76). -/
theorem classFp16_mulPack (sign : Bool) (eb : Int) {m : Nat} (hm : m < 1024) :
    classFp16 (mulPack sign eb m) = .zero ∨ classFp16 (mulPack sign eb m) = .normal ∨
      classFp16 (mulPack sign eb m) = .inf := by
  unfold mulPack
  split_ifs with hinf hzero
  · exact .inr (.inr (classFp16_encFp16_inf sign))
  · exact .inl (classFp16_encFp16_zero sign)
  · exact .inr (.inl (classFp16_encFp16_normal sign (by omega) (by omega) hm))

/-- Settles O39: the zero rule's signed zero, or what the multiplier packs. -/
theorem mulResultIsZeroNormalOrInfinity : Obligations.MulResultIsZeroNormalOrInfinity := by
  intro a n s
  refine ⟨_, exec_mulFp16 a n s, ?_⟩
  by_cases h : (decFp16 s.inputs.operands.a).ef = 0 ∨ (decFp16 s.inputs.operands.b).ef = 0
  · rw [mulFp16_of_ef_zero h]
    exact .inl (classFp16_encFp16_zero _)
  · obtain ⟨hx, hy⟩ := not_or.1 h
    rw [mulFp16_eq_mulPack hx hy]
    exact classFp16_mulPack _ _ (carryMant_lt (mulRound_le _ _))

/-- Settles O38: by the exponent after rounding, which reaches 1 at the flush bound and 31 at the saturation bound. -/
theorem mulRoundsTheExactProductToNearestEven : Obligations.MulRoundsTheExactProductToNearestEven := by
  intro a n s hx hy sign p floor
  have hpacked := mulFp16_eq_mulPack hx hy
  have hflush := le_mul_carryExp_iff hx hy 1
  have hinf := le_mul_carryExp_iff hx hy 31
  have hfloor : ((2 : ℚ) ^ (fp16Format.fracBits + 1) - 1 / 2) *
      2 ^ ((1 : Int) - 1 - (fp16Format.bias + fp16Format.fracBits)) = floor := by norm_num [fp16Format, floor]
  have hceil : ((2 : ℚ) ^ (fp16Format.fracBits + 1) - 1 / 2) *
      2 ^ ((31 : Int) - 1 - (fp16Format.bias + fp16Format.fracBits)) = 65520 := by norm_num [fp16Format]
  rw [hfloor] at hflush
  rw [hceil] at hinf
  refine ⟨_, exec_mulFp16 a n s, fun hlt => ?_, fun hge => ?_, fun hge hlt => ?_⟩
  · have hnot := mt hflush.1 (not_le.2 hlt)
    rw [hpacked, mulPack, if_neg (by omega), if_pos (by omega)]
  · rw [hpacked, mulPack, if_pos (hinf.2 hge)]
  · have hpos := hflush.2 hge
    have hbelow := mt hinf.1 (not_le.2 hlt)
    have hmant := carryMant_lt (mulRound_le s.inputs.operands.a s.inputs.operands.b)
    have hfields : decFp16 (mulFp16 s.inputs.operands.a s.inputs.operands.b) =
        mulFields s.inputs.operands.a s.inputs.operands.b := by
      rw [hpacked, mulPack_of_range _ _ hpos (by omega)]
      exact decFp16_encFp16 _ _ _ (by omega) hmant
    refine ⟨?_, fun z _ => ?_⟩
    · rw [hpacked, mulPack_of_range _ _ hpos (by omega), classFp16_encFp16_normal _ (by omega) (by omega) hmant]
      rfl
    · rw [literalFp16, hfields]
      exact mulFields_nearest hx hy hpos (decFp16_mf_lt z)

end Sys2Proof.Machine
end

section
/-! `REQUANT.BF16` as a rounding: the magnitude of the sum by its leading bit, and the range of the result
(45_fxp_to_bf16_requantizer.md R104 to R111). -/

namespace Sys2Proof.Machine

/-- The magnitude of a sum, `2^31` for the most negative one (45_fxp_to_bf16_requantizer.md R104). -/
def sumMag (t : Fxp) : Nat := t.toInt.natAbs

/-- The magnitude that the requantizer rounds, in units of its last place. -/
def requantMagnitude (t : Fxp) : ℚ := (sumMag t : ℚ) * 2 ^ (7 - (msb (sumMag t) : Int))

/-- The rounded mantissa of a sum, 128 for a carry (45_fxp_to_bf16_requantizer.md R107). -/
def sumMant (t : Fxp) : Nat := requantMant (sumMag t) (msb (sumMag t))

/-- The biased exponent of a sum before rounding (45_fxp_to_bf16_requantizer.md R105). -/
def sumExp (t : Fxp) (a : Anchor) : Int := requantExp (msb (sumMag t)) a.toNat

section
variable {mag k : Nat} (hlow : 2 ^ k ≤ mag) (hhigh : mag < 2 ^ (k + 1))
include hlow hhigh

/-- The bits kept of a magnitude with its leading bit at `k`: an implicit 1 and a mantissa of 7 bits. -/
theorem keptBits_eq (h7 : 7 ≤ k) : mag / 2 ^ (k - 7) = 2 ^ 7 + mag / 2 ^ (k - 7) % 128 := by
  have hl : 2 ^ 7 ≤ mag / 2 ^ (k - 7) :=
    (Nat.le_div_iff_mul_le (Nat.two_pow_pos _)).2 (by rwa [← pow_add, Nat.add_sub_of_le h7])
  have hh : mag / 2 ^ (k - 7) < 2 ^ 8 :=
    Nat.div_lt_of_lt_mul (by rwa [← pow_add, show k - 7 + 8 = k + 1 by omega])
  omega

/-- The guard bit and the sticky bits decide as the remainder does (45_fxp_to_bf16_requantizer.md R107). -/
theorem requantRound_eq (h8 : 8 ≤ k) : 2 ^ 7 + requantRound mag k = roundedQuotient mag (k - 7) := by
  obtain ⟨j, rfl⟩ := Nat.exists_eq_add_of_le' h8
  have hkept := keptBits_eq hlow hhigh (by omega)
  have hd : j + 8 - 7 = j + 1 := by omega
  have hrem : mag % 2 ^ (j + 1) = mag % 2 ^ j + 2 ^ j * (mag / 2 ^ j % 2) := Nat.mod_pow_succ
  have hrest : mag % 2 ^ j < 2 ^ j := Nat.mod_lt _ (Nat.two_pow_pos j)
  rw [hd] at hkept ⊢
  simp only [requantRound, roundedQuotient, hd, Nat.add_sub_cancel, Nat.shiftRight_eq_div_pow,
    Nat.testBit_eq_decide_div_mod_eq, Bool.and_eq_true, Bool.or_eq_true, decide_eq_true_eq]
  generalize mag / 2 ^ (j + 1) = q at *
  have hparity : q % 128 % 2 = q % 2 := Nat.mod_mod_of_dvd q (by decide)
  rw [hparity, hrem]
  generalize mag % 2 ^ j = rest at *
  generalize 2 ^ j = half at *
  rcases Nat.mod_two_eq_zero_or_one (mag / half) with hguard | hguard
  · rw [hguard, Nat.mul_zero]
    split <;> split <;> omega
  · rw [hguard, Nat.mul_one]
    split <;> split <;> omega

/-- However many bits lie below the leading one, the mantissa with its implicit 1 is what the magnitude rounds to
(45_fxp_to_bf16_requantizer.md R107, R109). -/
theorem requantMant_roundsToEven :
    RoundsToEven bf16Format.fracBits ((mag : ℚ) * 2 ^ (7 - (k : Int)))
      (2 ^ bf16Format.fracBits + requantMant mag k) := by
  show RoundsToEven 7 _ (2 ^ 7 + requantMant mag k)
  rcases Nat.lt_or_ge k 8 with hk | hk
  · obtain ⟨d, hd⟩ : ∃ d, k + d = 7 := ⟨7 - k, by omega⟩
    have hexp : (7 : Int) - k = d := by omega
    have hl : 2 ^ 7 ≤ mag * 2 ^ d := by
      rw [← hd, pow_add]
      exact Nat.mul_le_mul_right _ hlow
    have hh : mag * 2 ^ d < 2 ^ (7 + 1) := by
      rw [← hd, Nat.add_right_comm, pow_add]
      exact Nat.mul_lt_mul_of_pos_right hhigh (Nat.two_pow_pos d)
    have hmant : requantMant mag k = mag * 2 ^ d % 128 := by
      rw [requantMant, if_neg (by omega)]
      split
      next h7 =>
        obtain rfl : d = 0 := by omega
        rw [pow_zero, Nat.mul_one]
      next => rw [Nat.shiftLeft_eq, show 7 - k = d by omega]
    have hint : 2 ^ 7 + requantMant mag k = mag * 2 ^ d := by omega
    have hcast : (mag : ℚ) * 2 ^ (7 - (k : Int)) = ((mag * 2 ^ d : Nat) : ℚ) := by
      rw [hexp, zpow_natCast]
      push_cast
      rfl
    rw [hint, hcast]
    exact RoundsToEven.of_exact hl hh
  · have hexp : (7 : Int) - k = -((k - 7 : Nat) : Int) := by omega
    rw [requantMant, if_pos hk, requantRound_eq hlow hhigh hk, hexp, zpow_neg, zpow_natCast, ← div_eq_mul_inv]
    refine RoundsToEven.of_quotient (by omega) ?_ ?_
    · rwa [show 7 + (k - 7) = k by omega]
    · rwa [show 7 + 1 + (k - 7) = k + 1 by omega]

end

theorem sumMag_le (t : Fxp) : sumMag t ≤ 2 ^ 31 := by
  have hlow := BitVec.le_toInt t
  have hhigh := BitVec.toInt_lt (x := t)
  unfold sumMag
  omega

section
variable {t : Fxp} (ht : t ≠ 0)
include ht

theorem toInt_ne_zero_of_ne : t.toInt ≠ 0 := fun h => ht (BitVec.eq_of_toInt_eq h)

theorem sumMag_ne_zero : sumMag t ≠ 0 := Int.natAbs_ne_zero.2 (toInt_ne_zero_of_ne ht)

theorem sum_roundsToEven :
    RoundsToEven bf16Format.fracBits (requantMagnitude t) (2 ^ bf16Format.fracBits + sumMant t) :=
  requantMant_roundsToEven (msb_bounds _ (sumMag_ne_zero ht)).1 (msb_bounds _ (sumMag_ne_zero ht)).2

theorem sumMant_le : sumMant t ≤ 2 ^ bf16Format.fracBits := by
  have hle := (sum_roundsToEven ht).bounds.2
  rw [pow_succ] at hle
  omega

omit ht in
/-- The leading bit is at most bit 31, so the exponent field is positive at every anchor, and no sum is flushed
(45_fxp_to_bf16_requantizer.md R106, R111). -/
theorem sumExp_pos (t : Fxp) (a : Anchor) : 1 ≤ sumExp t a := by
  unfold sumExp requantExp
  omega

omit ht in
/-- A sum in the frame of its anchor is the magnitude in its units, with its sign. -/
theorem frameValue_eq (t : Fxp) (a : Anchor) :
    frameValue t a = (if decide (t.toInt < 0) then -1 else 1) *
      (requantMagnitude t * 2 ^ (sumExp t a - bf16Format.bias - bf16Format.fracBits)) := by
  have hexp : (7 - (msb (sumMag t) : Int)) + (sumExp t a - bf16Format.bias - bf16Format.fracBits) = a.toNat - 31 := by
    rw [sumExp, requantExp]
    simp only [bf16Format]
    push_cast
    ring
  have habs : (t.toInt : ℚ) = (if decide (t.toInt < 0) then -1 else 1) * (sumMag t : ℚ) := by
    rcases lt_or_ge t.toInt 0 with hneg | hpos
    · have hmag : (sumMag t : Int) = -t.toInt := Int.ofNat_natAbs_of_nonpos hneg.le
      have hmagQ : (sumMag t : ℚ) = -(t.toInt : ℚ) := by exact_mod_cast hmag
      simp [hneg, hmagQ]
    · have hmag : (sumMag t : Int) = t.toInt := Int.natAbs_of_nonneg hpos
      have hmagQ : (sumMag t : ℚ) = (t.toInt : ℚ) := by exact_mod_cast hmag
      simp [not_lt.2 hpos, hmagQ]
  rw [frameValue, requantMagnitude, habs, mul_assoc, mul_assoc, ← zpow_add₀ two_ne_zero, hexp]

/-- A nonzero sum saturates if its exponent after rounding has no field, and else is packed as it is
(45_fxp_to_bf16_requantizer.md R106, R108). -/
theorem requantBf16_of_ne_zero (a : Anchor) :
    requantBf16 t a =
      if 255 ≤ carryExp bf16Format.fracBits (sumMant t) (sumExp t a) then encBf16 (decide (t.toInt < 0)) 255 0
      else encBf16 (decide (t.toInt < 0)) (carryExp bf16Format.fracBits (sumMant t) (sumExp t a)).toNat
        (carryMant bf16Format.fracBits (sumMant t)) := by
  have hpos := sumExp_pos t a
  have hmodel : requantBf16 t a =
      if sumExp t a ≤ 0 then encBf16 (decide (t.toInt < 0)) 0 0
      else if 255 ≤ sumExp t a then encBf16 (decide (t.toInt < 0)) 255 0
      else requantPack (decide (t.toInt < 0)) (sumExp t a) (sumMant t) := if_neg (toInt_ne_zero_of_ne ht)
  rw [hmodel, if_neg (by omega), requantPack, carryExp, carryMant]
  by_cases hm : sumMant t = 2 ^ bf16Format.fracBits
  · rw [if_pos hm, if_pos hm, if_pos (show _ = 128 from hm)]
    by_cases hbig : 255 ≤ sumExp t a
    · rw [if_pos hbig, if_pos (by omega)]
    · rw [if_neg hbig]
  · rw [if_neg hm, if_neg hm, if_neg (show ¬_ = 128 from hm)]

/-- When the exponent after rounding has no field, in terms of the sum's value (45_fxp_to_bf16_requantizer.md R106,
R108). -/
theorem saturates_iff (a : Anchor) :
    255 ≤ carryExp bf16Format.fracBits (sumMant t) (sumExp t a) ↔ (2 : ℚ) ^ 128 - 2 ^ 119 ≤ |frameValue t a| := by
  have hmag : 0 ≤ requantMagnitude t := by
    unfold requantMagnitude
    positivity
  have hbound : ((2 : ℚ) ^ (bf16Format.fracBits + 1) - 1 / 2) *
      2 ^ ((255 : Int) - 1 - (bf16Format.bias + bf16Format.fracBits)) = 2 ^ 128 - 2 ^ 119 := by norm_num [bf16Format]
  have hexp : sumExp t a - bf16Format.bias - bf16Format.fracBits =
      sumExp t a - (bf16Format.bias + bf16Format.fracBits) := sub_sub _ _ _
  rw [frameValue_eq, abs_sign_mul, abs_of_nonneg (by positivity), hexp, ← hbound]
  exact (sum_roundsToEven ht).le_carryExp_iff _ _ (bf16Format.bias + bf16Format.fracBits)

/-- Below the saturation bound the result has the fields of the rounded sum, with a positive exponent field below the
all-ones one. -/
theorem decBf16_requantBf16 {a : Anchor} (h : |frameValue t a| < 2 ^ 128 - 2 ^ 119) :
    decBf16 (requantBf16 t a) = ⟨decide (t.toInt < 0),
      (carryExp bf16Format.fracBits (sumMant t) (sumExp t a)).toNat, carryMant bf16Format.fracBits (sumMant t)⟩ := by
  have hbelow := mt (saturates_iff ht a).1 (not_le.2 h)
  rw [requantBf16_of_ne_zero ht, if_neg hbelow]
  exact decBf16_encBf16 _ _ _ (by omega) (carryMant_lt (sumMant_le ht))

omit ht in
theorem carryExp_pos (t : Fxp) (a : Anchor) : 1 ≤ carryExp bf16Format.fracBits (sumMant t) (sumExp t a) := by
  have hpos := sumExp_pos t a
  unfold carryExp
  split <;> omega

theorem classBf16_requantBf16 {a : Anchor} (h : |frameValue t a| < 2 ^ 128 - 2 ^ 119) :
    classBf16 (requantBf16 t a) = .normal := by
  have hbelow := mt (saturates_iff ht a).1 (not_le.2 h)
  have hpos := carryExp_pos t a
  have hne : (carryExp bf16Format.fracBits (sumMant t) (sumExp t a)).toNat ≠ 0 := by omega
  have hmax : (carryExp bf16Format.fracBits (sumMant t) (sumExp t a)).toNat ≠ 255 := by omega
  rw [classBf16, decBf16_requantBf16 ht h]
  exact classOf_normal hne hmax

theorem requantBf16_of_saturated {a : Anchor} (h : 2 ^ 128 - 2 ^ 119 ≤ |frameValue t a|) :
    requantBf16 t a = encBf16 (decide (t.toInt < 0)) 255 0 := by
  rw [requantBf16_of_ne_zero ht, if_pos ((saturates_iff ht a).2 h)]

/-- The number of a result that is not saturated: the rounded integer in its units. -/
theorem literalBf16_requantBf16 {a : Anchor} (h : |frameValue t a| < 2 ^ 128 - 2 ^ 119) :
    literalBf16 (requantBf16 t a) = (if decide (t.toInt < 0) then -1 else 1) *
      (((2 ^ bf16Format.fracBits + sumMant t : Nat) : ℚ) *
        2 ^ (sumExp t a - bf16Format.bias - bf16Format.fracBits)) := by
  rw [literalBf16, decBf16_requantBf16 ht h]
  exact literalValue_carry bf16Format _ (carryExp_pos t a)

/-- A result that is not saturated is nearest to the sum's value (45_fxp_to_bf16_requantizer.md R111). -/
theorem requantBf16_nearest_of_ne_zero {a : Anchor} (h : |frameValue t a| < 2 ^ 128 - 2 ^ 119) :
    IsNearestEvenBf16 (requantBf16 t a) (frameValue t a) := by
  refine ⟨by rw [classBf16_requantBf16 ht h]; rfl, fun z _ => ?_⟩
  rw [frameValue_eq]
  refine (sum_roundsToEven ht).nearest (literalBf16_requantBf16 ht h) ?_ (decBf16_mf_lt z)
  rw [decBf16_requantBf16 ht h]
  exact carryMant_mod_two (by decide) _

end

theorem literalBf16_zero : literalBf16 0 = 0 := by
  rw [literalBf16, literalValue_of_ef_zero _ (show (decBf16 0).ef = 0 from rfl), show (decBf16 0).mf = 0 from rfl,
    Nat.cast_zero, mul_zero, zero_mul]

theorem classBf16_encBf16_inf (sign : Bool) : classBf16 (encBf16 sign 255 0) = .inf := by cases sign <;> rfl

/-- Settles O50: at the saturation bound the exponent after rounding has no field, and below it the result is the
rounded sum. -/
theorem requantRoundsToNearestEven : Obligations.RequantRoundsToNearestEven := by
  intro a n s ht t x
  refine ⟨_, exec_requantBf16 a n s, requantBf16_of_saturated ht, fun hlt => ?_⟩
  refine ⟨requantBf16_nearest_of_ne_zero ht hlt, ?_⟩
  rw [decBf16_requantBf16 ht hlt]

/-- A frame holds no value of the saturation range unless its anchor is above 127 (45_fxp_to_bf16_requantizer.md R111
part 4). -/
theorem abs_frameValue_lt_of_anchor_le (t : Fxp) {a : Anchor} (h : a.toNat ≤ 127) :
    |frameValue t a| < 2 ^ 128 - 2 ^ 119 := by
  have hmag : |(t.toInt : ℚ)| ≤ 2 ^ 31 := by
    rw [← Int.cast_abs, Int.abs_eq_natAbs]
    exact_mod_cast sumMag_le t
  have hunit : (2 : ℚ) ^ ((a.toNat : Int) - 31) ≤ 2 ^ (96 : Int) := zpow_le_zpow_right₀ (by norm_num) (by omega)
  have hpos : (0 : ℚ) < 2 ^ ((a.toNat : Int) - 31) := by positivity
  calc |frameValue t a|
    _ = |(t.toInt : ℚ)| * 2 ^ ((a.toNat : Int) - 31) := by rw [frameValue, abs_mul, abs_of_pos hpos]
    _ ≤ 2 ^ 31 * 2 ^ (96 : Int) := mul_le_mul hmag hunit hpos.le (by positivity)
    _ < 2 ^ 128 - 2 ^ 119 := by norm_num

/-- The classes of the results (45_fxp_to_bf16_requantizer.md R111 parts 3 and 4). -/
theorem requantBf16_zero_normal_or_inf (t : Fxp) (a : Anchor) :
    requantBf16 t a = 0 ∨ classBf16 (requantBf16 t a) = .normal ∨
      (classBf16 (requantBf16 t a) = .inf ∧ 127 < a.toNat) := by
  by_cases ht : t = 0
  · exact .inl (by rw [ht, requantBf16_zero])
  · rcases lt_or_ge |frameValue t a| (2 ^ 128 - 2 ^ 119) with hlt | hge
    · exact .inr (.inl (classBf16_requantBf16 ht hlt))
    · refine .inr (.inr ⟨?_, Nat.lt_of_not_le fun ha => not_lt.2 hge (abs_frameValue_lt_of_anchor_le t ha)⟩)
      rw [requantBf16_of_saturated ht hge]
      exact classBf16_encBf16_inf _

/-- Settles O52: a zero sum, one below the saturation bound, and one at or above it. -/
theorem requantResultIsZeroNormalOrInfinity : Obligations.RequantResultIsZeroNormalOrInfinity := fun a n s =>
  ⟨_, exec_requantBf16 a n s, requantBf16_zero_normal_or_inf _ _⟩

/-- A result that is no infinity is not saturated. -/
theorem abs_frameValue_lt_of_not_inf {t : Fxp} (ht : t ≠ 0) {a : Anchor} (h : classBf16 (requantBf16 t a) ≠ .inf) :
    |frameValue t a| < 2 ^ 128 - 2 ^ 119 := by
  by_contra hge
  rw [requantBf16_of_saturated ht (not_lt.1 hge)] at h
  exact h (classBf16_encBf16_inf _)

/-- Settles O53: the anchor is in the unit of the rounded integer alone, and not in the integer. -/
theorem requantWithAnotherAnchorScalesTheResult : Obligations.RequantWithAnotherAnchorScalesTheResult := by
  intro t a b ha hb
  by_cases ht : t = 0
  · rw [ht, requantBf16_zero, requantBf16_zero, literalBf16_zero, zero_mul]
  · have hexp : sumExp t b - bf16Format.bias - bf16Format.fracBits =
        sumExp t a - bf16Format.bias - bf16Format.fracBits + (b.toNat - a.toNat) := by
      unfold sumExp requantExp
      ring
    rw [literalBf16_requantBf16 ht (abs_frameValue_lt_of_not_inf ht ha),
      literalBf16_requantBf16 ht (abs_frameValue_lt_of_not_inf ht hb), hexp, zpow_add₀ two_ne_zero]
    ring

/-- The exponent and the significand of a normal number are determined by its magnitude. -/
theorem normal_fields_unique {fb m k : Nat} {d e : Int} (hm : m < 2 ^ fb) (hk : k < 2 ^ fb)
    (h : ((2 : ℚ) ^ fb + m) * 2 ^ d = (2 ^ fb + k) * 2 ^ e) : d = e ∧ m = k := by
  have hmQ : (m : ℚ) < 2 ^ fb := by exact_mod_cast hm
  have hkQ : (k : ℚ) < 2 ^ fb := by exact_mod_cast hk
  have below {i j : Nat} {d e : Int} (hj : (j : ℚ) < 2 ^ fb) (hlt : e < d) :
      ((2 : ℚ) ^ fb + j) * 2 ^ e < (2 ^ fb + i) * 2 ^ d := by
    have hunits : (2 : ℚ) ^ e * 2 ≤ 2 ^ d := by
      rw [← zpow_add_one₀ two_ne_zero]
      exact zpow_le_zpow_right₀ (by norm_num) (by omega)
    calc ((2 : ℚ) ^ fb + j) * 2 ^ e
      _ < (2 ^ fb + 2 ^ fb) * 2 ^ e := mul_lt_mul_of_pos_right (by linarith) (by positivity)
      _ = 2 ^ fb * (2 ^ e * 2) := by ring
      _ ≤ (2 ^ fb + i) * 2 ^ d :=
        mul_le_mul (le_add_of_nonneg_right (Nat.cast_nonneg i)) hunits (by positivity) (by positivity)
  rcases lt_trichotomy d e with hde | rfl | hde
  · exact absurd h (below hmQ hde).ne
  · have hunit : (2 : ℚ) ^ d ≠ 0 := by positivity
    exact ⟨rfl, by exact_mod_cast add_left_cancel (mul_right_cancel₀ hunit h)⟩
  · exact absurd h (below hkQ hde).ne'

/-- A normal pattern has an exponent field that is neither 0 nor all ones (40_format_decoder.md R58). -/
theorem ef_of_classOf_normal {emax : Nat} {u : Unpacked} (h : classOf emax u = .normal) : u.ef ≠ 0 ∧ u.ef ≠ emax := by
  refine ⟨(classOf_ef emax u).2 h, fun he => ?_⟩
  have hne := (classOf_ef emax u).2 h
  rw [classOf, if_neg hne, if_pos he] at h
  split at h <;> cases h

/-- Normal fields of one format that are the same number are the same fields. -/
theorem literalValue_injective_of_normal {f : FloatFormat} {u v : Unpacked} (hu : u.ef ≠ 0) (hv : v.ef ≠ 0)
    (hmu : u.mf < 2 ^ f.fracBits) (hmv : v.mf < 2 ^ f.fracBits) (h : literalValue f u = literalValue f v) : u = v := by
  rw [literalValue_of_ef_ne_zero f hu, literalValue_of_ef_ne_zero f hv] at h
  have habs := congrArg abs h
  rw [mul_assoc, mul_assoc, abs_sign_mul, abs_sign_mul, abs_of_pos (by positivity), abs_of_pos (by positivity)] at habs
  obtain ⟨hexp, hmf⟩ := normal_fields_unique hmu hmv habs
  have hef : u.ef = v.ef := by omega
  have hsign : u.sign = v.sign := by
    have hpos : (0 : ℚ) < (2 ^ f.fracBits + u.mf) * 2 ^ ((u.ef : Int) - f.bias - f.fracBits) := by positivity
    rw [← hmf, ← hef, mul_assoc, mul_assoc] at h
    have hs := mul_right_cancel₀ hpos.ne' h
    revert hs
    cases u.sign <;> cases v.sign <;> norm_num
  cases u
  cases v
  cases hef
  cases hmf
  cases hsign
  rfl

theorem decBf16_injective : Function.Injective decBf16 := fun x y h => by
  obtain ⟨-, -, henc⟩ := encodingUndoesDecodingOfFormats
  rw [← henc x, ← henc y, h]

/-- A normal number is below the saturation bound (45_fxp_to_bf16_requantizer.md R108). -/
theorem abs_literalBf16_lt_of_normal {y : Bf16} (h : classBf16 y = .normal) : |literalBf16 y| < 2 ^ 128 - 2 ^ 119 := by
  obtain ⟨hne, hmax⟩ := ef_of_classOf_normal h
  have hef := decBf16_ef_lt y
  have hmf : ((decBf16 y).mf : ℚ) ≤ 127 := by exact_mod_cast Nat.le_of_lt_succ (decBf16_mf_lt y)
  have hunit : (2 : ℚ) ^ (((decBf16 y).ef : Int) - bf16Format.bias - bf16Format.fracBits) ≤ 2 ^ (120 : Int) := by
    refine zpow_le_zpow_right₀ (by norm_num) ?_
    simp only [bf16Format]
    omega
  rw [literalBf16, literalValue_of_ef_ne_zero _ hne, mul_assoc, abs_sign_mul, abs_of_pos (by positivity)]
  calc ((2 : ℚ) ^ bf16Format.fracBits + (decBf16 y).mf) *
        2 ^ (((decBf16 y).ef : Int) - bf16Format.bias - bf16Format.fracBits)
    _ ≤ 255 * 2 ^ (120 : Int) := by
      refine mul_le_mul ?_ hunit (by positivity) (by norm_num)
      norm_num [bf16Format]
      linarith
    _ < 2 ^ 128 - 2 ^ 119 := by norm_num

/-- A number that a finite pattern has is returned by rounding to nearest. -/
theorem literalBf16_of_nearest {y r : Bf16} {x : ℚ} (hr : IsNearestEvenBf16 r x) (hy : (classBf16 y).isFinite = true)
    (hx : x = literalBf16 y) : literalBf16 r = literalBf16 y := by
  have hle := (hr.2 y hy).1
  rw [hx, sub_self, abs_zero] at hle
  exact sub_eq_zero.1 (abs_nonpos_iff.1 hle)

/-- Settles O51: the result is nearest to the pattern's own number, so it has that number, and normal patterns of one
number are the same. -/
theorem requantReturnsRepresentableValuesUnchanged : Obligations.RequantReturnsRepresentableValuesUnchanged := by
  intro a n s y hy hvalue
  have hfinite : (classBf16 y).isFinite = true := by rw [hy]; rfl
  obtain ⟨hyef, -⟩ := ef_of_classOf_normal hy
  have ht : s.inputs.operands.s32 ≠ 0 := by
    intro h0
    have hnz : literalBf16 y ≠ 0 := by
      rw [literalBf16, literalValue_of_ef_ne_zero _ hyef, ← abs_ne_zero, mul_assoc, abs_sign_mul]
      positivity
    rw [h0] at hvalue
    exact hnz (hvalue.symm.trans (by simp [frameValue]))
  have hlt : |frameValue s.inputs.operands.s32 a| < 2 ^ 128 - 2 ^ 119 := hvalue ▸ abs_literalBf16_lt_of_normal hy
  have hsame := literalBf16_of_nearest (requantBf16_nearest_of_ne_zero ht hlt) hfinite hvalue
  have hef := (ef_of_classOf_normal (classBf16_requantBf16 ht hlt)).1
  rw [exec_requantBf16, decBf16_injective
    (literalValue_injective_of_normal hef hyef (decBf16_mf_lt _) (decBf16_mf_lt _) hsame)]

end Sys2Proof.Machine
end

section
/-! `MAC`: the exact sum of its aligned terms, its distance from the exact dot product, and the batch of no pairs
(46_mac_composite.md R112, R113). -/

namespace Sys2Proof.Machine

/-- Any sum below the saturation bound, zero too, is requantized to a nearest pattern (45_fxp_to_bf16_requantizer.md
R111). -/
theorem requantBf16_nearest {t : Fxp} {a : Anchor} (h : |frameValue t a| < 2 ^ 128 - 2 ^ 119) :
    IsNearestEvenBf16 (requantBf16 t a) (frameValue t a) := by
  by_cases ht : t = 0
  · have hvalue : frameValue 0 a = 0 := by simp [frameValue]
    rw [ht, requantBf16_zero, hvalue]
    refine ⟨rfl, fun z _ => ⟨?_, fun _ _ => rfl⟩⟩
    rw [literalBf16_zero, sub_self, abs_zero]
    exact abs_nonneg _
  · exact requantBf16_nearest_of_ne_zero ht h

section
variable {va vb : List Fp16} {c : E4M3} (hn : va.length ≤ Config.laneBound)
include hn

theorem macAnchor_le : (macAnchor va vb c).toNat ≤ 23 := selectAnchor_le c (macProducts_length_le hn)

/-- A MAC's sum is far from saturation: its anchor is at most 23 (46_mac_composite.md R112). -/
theorem abs_frameValue_macSum_lt : |frameValue (macSum va vb c) (macAnchor va vb c)| < 2 ^ 128 - 2 ^ 119 :=
  abs_frameValue_lt_of_anchor_le _ ((macAnchor_le hn).trans (by decide))

theorem macBf16_nearest : IsNearestEvenBf16 (macBf16 va vb c) (frameValue (macSum va vb c) (macAnchor va vb c)) :=
  requantBf16_nearest (abs_frameValue_macSum_lt hn)

/-- A MAC's result is no infinity (46_mac_composite.md R112). -/
theorem macBf16_zero_or_normal : macBf16 va vb c = 0 ∨ classBf16 (macBf16 va vb c) = .normal := by
  rcases requantBf16_zero_normal_or_inf (macSum va vb c) (macAnchor va vb c) with hzero | hnormal | ⟨-, hlarge⟩
  · exact .inl hzero
  · exact .inr hnormal
  · have hle := macAnchor_le (vb := vb) (c := c) hn
    omega

/-- The value of a MAC's sum is the sum of the values of its aligned terms (42_anchor_exponent_selector.md R86). -/
theorem frameValue_macSum :
    frameValue (macSum va vb c) (macAnchor va vb c) =
      frameValue (alignE4M3 c (macAnchor va vb c)) (macAnchor va vb c) +
        ((macProducts va vb).map fun p => frameValue (alignFp16 p (macAnchor va vb c)) (macAnchor va vb c)).sum := by
  have hexact : (macSum va vb c).toInt = (alignE4M3 c (macAnchor va vb c)).toInt +
      ((macProducts va vb).map fun p => (alignFp16 p (macAnchor va vb c)).toInt).sum :=
    reduceTerms_aligned_toInt (macProducts_length_le hn)
  simp only [frameValue, hexact, List.sum_map_mul_right]
  push_cast
  rw [add_mul, List.map_map]
  rfl

end

/-- Two sums of as many terms differ by at most the bound on each pair times their number. -/
theorem abs_sum_map_sub_le {α : Type} (g k : α → ℚ) {bound : ℚ} {xs : List α} (h : ∀ x ∈ xs, |g x - k x| ≤ bound) :
    |(xs.map g).sum - (xs.map k).sum| ≤ xs.length * bound := by
  induction xs with
  | nil => simp
  | cons x xs ih =>
    have hx := h x List.mem_cons_self
    have hxs := ih fun y hy => h y (List.mem_cons_of_mem _ hy)
    rw [List.map_cons, List.map_cons, List.sum_cons, List.sum_cons, List.length_cons, add_sub_add_comm]
    calc |g x - k x + ((xs.map g).sum - (xs.map k).sum)|
      _ ≤ |g x - k x| + |(xs.map g).sum - (xs.map k).sum| := abs_add_le _ _
      _ ≤ bound + xs.length * bound := add_le_add hx hxs
      _ = (xs.length + 1 : Nat) * bound := by
        push_cast
        ring

/-- The aligner loses less than one frame unit of each term, so a MAC's sum is that near to the exact one
(43_fxp_aligner_pipeline.md R99, 46_mac_composite.md R113 part 3). -/
theorem abs_exactSum_sub_macSum_lt {va vb : List Fp16} (c : E4M3) (hn : va.length ≤ Config.laneBound) :
    |literalE4M3 c + ((macProducts va vb).map literalFp16).sum - frameValue (macSum va vb c) (macAnchor va vb c)| <
      ((macProducts va vb).length + 1) * (2 : ℚ) ^ (((macAnchor va vb c).toNat : Int) - 31) := by
  have hlen : (macProducts va vb).length ≤ Config.laneBound := macProducts_length_le hn
  have haddend := abs_literalValue_sub_frameValue_lt (significand_decE4M3_lt c) (frameUnits_addend_lt (c := c) hlen)
  have hproducts := abs_sum_map_sub_le literalFp16
    (fun p => frameValue (alignFp16 p (macAnchor va vb c)) (macAnchor va vb c)) (xs := macProducts va vb) fun p hp =>
      (abs_literalValue_sub_frameValue_lt (significand_decFp16_lt p) (frameUnits_product_lt (c := c) hlen hp)).le
  rw [frameValue_macSum hn, add_sub_add_comm, add_mul, one_mul, add_comm (_ * _)]
  exact (abs_add_le _ _).trans_lt (add_lt_add_of_lt_of_le haddend hproducts)

/-- Settles O57: the result is that of the requantizer at an anchor of at most 23. -/
theorem macResultIsZeroOrNormal : Obligations.MacResultIsZeroOrNormal := fun a n s hn =>
  ⟨_, exec_mac_of_legal a s hn, macBf16_zero_or_normal (take_length_le_laneBound _ n)⟩

/-- Settles O56: the number that is rounded is the sum of the aligned terms, of which there are `N + 1`. -/
theorem macErrorIsBelowOneFrameUnitPerTerm : Obligations.MacErrorIsBelowOneFrameUnitPerTerm := by
  intro a n s hn va vb c exactSum
  have hva : va.length ≤ Config.laneBound := take_length_le_laneBound _ n
  have hlen : (macProducts va vb).length = n.toNat := by
    rw [macProducts, List.length_zipWith, show va.length = n.toNat from lanesUsed_length s.inputs.operands.va n,
      show vb.length = n.toNat from lanesUsed_length s.inputs.operands.vb n, Nat.min_self]
  refine ⟨_, _, exec_mac_of_legal a s hn, macBf16_nearest hva, ?_⟩
  have herror := abs_exactSum_sub_macSum_lt (vb := vb) c hva
  rw [hlen] at herror
  exact herror

/-- Every e4m3 number, the sentinel's -480 too, is that of a finite bf16 pattern (40_format_decoder.md R62, R67). -/
theorem exists_bf16_of_e4m3 (c : E4M3) :
    ∃ y : Bf16, (classBf16 y).isFinite = true ∧ literalBf16 y = literalE4M3 c := by
  have hef := widenFields_ef_lt (f := bf16Format) (by decide) (decE4M3_ef_lt c) (decE4M3_mf_lt c)
  have hclass := classOf_widenFields (f := bf16Format) (emax := 255) (by decide) (decE4M3_ef_lt c) (decE4M3_mf_lt c)
    (by decide)
  have hfields := decBf16_encBf16 (widenFields bf16Format (decE4M3 c)).sign _ _ (hef.trans (by decide))
    (widenFields_mf_lt (f := bf16Format) (decE4M3_mf_lt c) (by decide))
  refine ⟨_, ?_, (congrArg (literalValue bf16Format) hfields).trans
    (literalValue_widenFields (by decide) (decE4M3_ef_lt c) (decE4M3_mf_lt c) (by decide))⟩
  rw [classBf16, hfields]
  rcases hclass with h | h <;> rw [h] <;> rfl

/-- The addend alone is aligned without loss: its anchor is at most 9 (46_mac_composite.md R112). -/
theorem frameValue_macSum_nil (c : E4M3) : frameValue (macSum [] [] c) (macAnchor [] [] c) = literalE4M3 c := by
  have hnil : ([] : List Fp16).length ≤ Config.laneBound := Nat.zero_le _
  have hanchor : ((macAnchor [] [] c).toNat : Int) ≤ 9 := by
    have hmax := (addendExp_bounds c).2
    have hclamp : ((macAnchor [] [] c).toNat : Int) = clamp (addendExp c + 1) 0 255 := selectAnchor_toNat_eq_clamp [] c
    rw [hclamp, clamp]
    omega
  have hexp := one_sub_bias_le_unbiasedExp e4m3Format (decE4M3 c)
  have hshift : alignShift e4m3Format (decE4M3 c) (macAnchor [] [] c).toNat ≤ 0 := by
    rw [alignShift]
    simp only [e4m3Format] at hexp ⊢
    omega
  rw [frameValue_macSum hnil, macProducts, List.zipWith_nil_left, List.map_nil, List.sum_nil, add_zero]
  exact frameValue_alignFields_of_shift_nonpos (significand_decE4M3_lt c) (frameUnits_addend_lt (products := []) hnil)
    hshift

/-- Settles O58: the result is nearest to the addend's number, and a bf16 pattern has that number. -/
theorem macOfNoPairsIsTheAddend : Obligations.MacOfNoPairsIsTheAddend := by
  intro a s
  obtain ⟨y, hfinite, hy⟩ := exists_bf16_of_e4m3 s.inputs.operands.c8
  have hnearest := macBf16_nearest (va := []) (vb := []) (c := s.inputs.operands.c8) (Nat.zero_le _)
  refine ⟨_, exec_mac_of_legal a s (Nat.zero_le _), ?_⟩
  exact (literalBf16_of_nearest hnearest hfinite ((frameValue_macSum_nil _).trans hy.symm)).trans hy

end Sys2Proof.Machine
end
